-- ==== Sys2Proof/Word.lean ====
section
/-! DEFINITION. The bit-vector types of the core. Every value is unsigned (00_scope.md R9); bit 0 is the
least significant bit (R8). -/

namespace Sys2Proof

/-- A general register, a byte of memory, a timer (10_state.md R20, R30; 20_memory.md R50). -/
abbrev Byte := BitVec 8

/-- PC, I, a stack entry, FAULT_INFO, an instruction word (10_state.md R25, R28, R29, R33; 30_encoding.md R70). -/
abbrev Word := BitVec 16

/-- A 4-bit field of an instruction word (00_scope.md R13). -/
abbrev Nibble := BitVec 4

/-- A register index: every index 0..15 is encodable and legal (10_state.md R20). -/
abbrev RegIdx := BitVec 4

/-- The 12-bit immediate NNN (30_encoding.md R71). -/
abbrev Imm12 := BitVec 12

end Sys2Proof
end

