-- ==== Sys2Proof/Syntax.lean ====
section
/-! DEFINITION. The 34 instructions of 30_encoding.md R76, one constructor per row of spec/opcode_table.json,
in the table's order. Bits the decoder ignores (the low nibble of families 5 and 9, Y of shr and shl: R73,
R75) are no operand: every value of them is the same instruction. -/

namespace Sys2Proof

/-- One instruction with its operands (30_encoding.md R73, R76). Register and immediate fields are the word's
own bits; the row count N of `draw` is a count (R72: "N is used as the row count 0..15"). -/
inductive Instr where
  /-- `00E0` clear-screen (44_display.md R190). -/
  | clearScreen
  /-- `00EE` return (41_control_flow.md R121). -/
  | ret
  /-- `1NNN` jump (41_control_flow.md R122). -/
  | jump (nnn : Imm12)
  /-- `2NNN` call (41_control_flow.md R123). -/
  | call (nnn : Imm12)
  /-- `3XNN` skip-eq-imm (41_control_flow.md R124). -/
  | skipEqImm (x : RegIdx) (nn : Byte)
  /-- `4XNN` skip-ne-imm (41_control_flow.md R125). -/
  | skipNeImm (x : RegIdx) (nn : Byte)
  /-- `5XY-` skip-eq-reg (41_control_flow.md R126). -/
  | skipEqReg (x y : RegIdx)
  /-- `6XNN` set-imm (42_alu.md R141). -/
  | setImm (x : RegIdx) (nn : Byte)
  /-- `7XNN` add-imm (42_alu.md R142). -/
  | addImm (x : RegIdx) (nn : Byte)
  /-- `8XY0` set-reg (42_alu.md R143). -/
  | setReg (x y : RegIdx)
  /-- `8XY1` or (42_alu.md R144). -/
  | orReg (x y : RegIdx)
  /-- `8XY2` and (42_alu.md R145). -/
  | andReg (x y : RegIdx)
  /-- `8XY3` xor (42_alu.md R146). -/
  | xorReg (x y : RegIdx)
  /-- `8XY4` add-reg (42_alu.md R147). -/
  | addReg (x y : RegIdx)
  /-- `8XY5` sub-reg (42_alu.md R148). -/
  | subReg (x y : RegIdx)
  /-- `8XY6` shr (42_alu.md R149); Y is not read. -/
  | shr (x : RegIdx)
  /-- `8XY7` subn (42_alu.md R150). -/
  | subn (x y : RegIdx)
  /-- `8XYE` shl (42_alu.md R151); Y is not read. -/
  | shl (x : RegIdx)
  /-- `9XY-` skip-ne-reg (41_control_flow.md R127). -/
  | skipNeReg (x y : RegIdx)
  /-- `ANNN` set-I (43_index_memory.md R170). -/
  | setI (nnn : Imm12)
  /-- `BNNN` jump-offset (41_control_flow.md R128). -/
  | jumpOffset (nnn : Imm12)
  /-- `CXNN` rand (42_alu.md R152). -/
  | rand (x : RegIdx) (nn : Byte)
  /-- `DXYN` draw (44_display.md R191). -/
  | draw (x y : RegIdx) (n : Nat)
  /-- `EX9E` skip-key-pressed (45_timers_input.md R211). -/
  | skipKeyPressed (x : RegIdx)
  /-- `EXA1` skip-key-not-pressed (45_timers_input.md R212). -/
  | skipKeyNotPressed (x : RegIdx)
  /-- `FX07` load-delay (45_timers_input.md R213). -/
  | loadDelay (x : RegIdx)
  /-- `FX0A` wait-key (45_timers_input.md R214). -/
  | waitKey (x : RegIdx)
  /-- `FX15` set-delay (45_timers_input.md R215). -/
  | setDelay (x : RegIdx)
  /-- `FX18` set-sound (45_timers_input.md R216). -/
  | setSound (x : RegIdx)
  /-- `FX1E` add-I (43_index_memory.md R171). -/
  | addI (x : RegIdx)
  /-- `FX29` font-addr (43_index_memory.md R172). -/
  | fontAddr (x : RegIdx)
  /-- `FX33` bcd (43_index_memory.md R173). -/
  | bcd (x : RegIdx)
  /-- `FX55` store-regs (43_index_memory.md R174). -/
  | storeRegs (x : RegIdx)
  /-- `FX65` load-regs (43_index_memory.md R175). -/
  | loadRegs (x : RegIdx)
deriving DecidableEq, Repr

end Sys2Proof
end

