-- ==== Sys2Proof/Decode.lean ====
section
/-! DEFINITION. Decoding and encoding. The decoder is the two-level dispatch of 30_encoding.md R74; beside it
stands the opcode map of R76 as a table, row for row. Every opcode value but the one of `jump` is general
knowledge in the spec (its WARNING, D14): UNVERIFIED, log 5. -/

namespace Sys2Proof

/-! ### Fields (30_encoding.md R71, 40_cycle_driver.md R107) -/

/-- The family, w[15:12]. -/
def fieldF (w : Word) : Nibble := w.extractLsb' 12 4

/-- X, w[11:8]. -/
def fieldX (w : Word) : RegIdx := w.extractLsb' 8 4

/-- Y, w[7:4]. -/
def fieldY (w : Word) : RegIdx := w.extractLsb' 4 4

/-- N, w[3:0]. -/
def fieldN (w : Word) : Nibble := w.extractLsb' 0 4

/-- NN, w[7:0]. -/
def fieldNN (w : Word) : Byte := w.extractLsb' 0 8

/-- NNN, w[11:0]. -/
def fieldNNN (w : Word) : Imm12 := w.extractLsb' 0 12

/-! ### Decoding -/

/-- Family 0x0: the whole word is the secondary key (30_encoding.md R74). -/
def decodeFamily0 (w : Word) : Option Instr :=
  if w = 0x00E0 then some .clearScreen
  else if w = 0x00EE then some .ret
  else none

/-- Family 0x8: the low nibble is the secondary key (30_encoding.md R74). Y of `shr` and `shl` is ignored (R73). -/
def decodeFamily8 (w : Word) : Option Instr :=
  let x := fieldX w
  let y := fieldY w
  match (fieldN w).toNat with
  | 0x0 => some (.setReg x y)
  | 0x1 => some (.orReg x y)
  | 0x2 => some (.andReg x y)
  | 0x3 => some (.xorReg x y)
  | 0x4 => some (.addReg x y)
  | 0x5 => some (.subReg x y)
  | 0x6 => some (.shr x)
  | 0x7 => some (.subn x y)
  | 0xE => some (.shl x)
  | _ => none

/-- Family 0xE: the low byte is the secondary key (30_encoding.md R74). -/
def decodeFamilyE (w : Word) : Option Instr :=
  let x := fieldX w
  match (fieldNN w).toNat with
  | 0x9E => some (.skipKeyPressed x)
  | 0xA1 => some (.skipKeyNotPressed x)
  | _ => none

/-- Family 0xF: the low byte is the secondary key (30_encoding.md R74). -/
def decodeFamilyF (w : Word) : Option Instr :=
  let x := fieldX w
  match (fieldNN w).toNat with
  | 0x07 => some (.loadDelay x)
  | 0x0A => some (.waitKey x)
  | 0x15 => some (.setDelay x)
  | 0x18 => some (.setSound x)
  | 0x1E => some (.addI x)
  | 0x29 => some (.fontAddr x)
  | 0x33 => some (.bcd x)
  | 0x55 => some (.storeRegs x)
  | 0x65 => some (.loadRegs x)
  | _ => none

/-- Decode(w) (40_cycle_driver.md R110): the family first, then the secondary key where the family has one
(30_encoding.md R74). `none` is UNKNOWN (R77). It reads nothing but w. -/
def decodeWord (w : Word) : Option Instr :=
  match (fieldF w).toNat with
  | 0x0 => decodeFamily0 w
  | 0x1 => some (.jump (fieldNNN w))
  | 0x2 => some (.call (fieldNNN w))
  | 0x3 => some (.skipEqImm (fieldX w) (fieldNN w))
  | 0x4 => some (.skipNeImm (fieldX w) (fieldNN w))
  | 0x5 => some (.skipEqReg (fieldX w) (fieldY w))
  | 0x6 => some (.setImm (fieldX w) (fieldNN w))
  | 0x7 => some (.addImm (fieldX w) (fieldNN w))
  | 0x8 => decodeFamily8 w
  | 0x9 => some (.skipNeReg (fieldX w) (fieldY w))
  | 0xA => some (.setI (fieldNNN w))
  | 0xB => some (.jumpOffset (fieldNNN w))
  | 0xC => some (.rand (fieldX w) (fieldNN w))
  | 0xD => some (.draw (fieldX w) (fieldY w) (fieldN w).toNat)
  | 0xE => decodeFamilyE w
  | _ => decodeFamilyF w

/-- The word two bytes make: big-endian, the first byte is w[15:8] (20_memory.md R52, R53). -/
def wordOfBytes (hi lo : Byte) : Word := hi ++ lo

/-- w[15:8], the byte at the lower address (20_memory.md R53). -/
def hiByte (w : Word) : Byte := w.extractLsb' 8 8

/-- w[7:0], the byte at the higher address (20_memory.md R53). -/
def loByte (w : Word) : Byte := w.extractLsb' 0 8

/-- What decoding a sequence of bytes gives: an instruction and the bytes after it, or a rejection by name. -/
inductive Decoded where
  /-- The bytes begin with this instruction. -/
  | instr (i : Instr) (rest : List Byte)
  /-- The first word matches no row of the opcode map: UNKNOWN_OPCODE (30_encoding.md R77). -/
  | unknownOpcode (w : Word)
  /-- Fewer than the two bytes of an instruction word (30_encoding.md R70). -/
  | truncated
deriving DecidableEq, Repr

/-- The decoder on bytes, total: one length, two bytes, no prefix and no extension word (30_encoding.md R70). -/
def decode : List Byte → Decoded
  | hi :: lo :: rest =>
    match decodeWord (wordOfBytes hi lo) with
    | some i => .instr i rest
    | none => .unknownOpcode (wordOfBytes hi lo)
  | [_] => .truncated
  | [] => .truncated

/-- The instruction the decoder reads from the word whose bits are `w`, laid out big-endian: the bits from
`nbits` up are 0, and an instruction is 16 bits. -/
def decodeTableWord (nbits w : Nat) : Option Instr :=
  let word : Word := BitVec.ofNat 16 (w % 2 ^ nbits)
  match decode [hiByte word, loByte word] with
  | .instr i _ => some i
  | .unknownOpcode _ => none
  | .truncated => none

/-! ### Encoding (30_encoding.md R73, R76; the assembler writes 0 in ignored fields, R79) -/

/-- Format A: `FFFF nnnn nnnn nnnn`. -/
def formatA (f : Nibble) (nnn : Imm12) : Word := f ++ nnn

/-- Formats XI and XO: `FFFF xxxx` and a byte. -/
def formatXI (f : Nibble) (x : RegIdx) (nn : Byte) : Word := f ++ x ++ nn

/-- Formats XY, XYO and XYN: `FFFF xxxx yyyy` and a nibble. -/
def formatXYN (f : Nibble) (x y : RegIdx) (n : Nibble) : Word := f ++ x ++ y ++ n

/-- The word of an instruction. -/
def encode : Instr → Word
  | .clearScreen => 0x00E0
  | .ret => 0x00EE
  | .jump nnn => formatA 0x1 nnn
  | .call nnn => formatA 0x2 nnn
  | .skipEqImm x nn => formatXI 0x3 x nn
  | .skipNeImm x nn => formatXI 0x4 x nn
  | .skipEqReg x y => formatXYN 0x5 x y 0x0
  | .setImm x nn => formatXI 0x6 x nn
  | .addImm x nn => formatXI 0x7 x nn
  | .setReg x y => formatXYN 0x8 x y 0x0
  | .orReg x y => formatXYN 0x8 x y 0x1
  | .andReg x y => formatXYN 0x8 x y 0x2
  | .xorReg x y => formatXYN 0x8 x y 0x3
  | .addReg x y => formatXYN 0x8 x y 0x4
  | .subReg x y => formatXYN 0x8 x y 0x5
  | .shr x => formatXYN 0x8 x 0x0 0x6
  | .subn x y => formatXYN 0x8 x y 0x7
  | .shl x => formatXYN 0x8 x 0x0 0xE
  | .skipNeReg x y => formatXYN 0x9 x y 0x0
  | .setI nnn => formatA 0xA nnn
  | .jumpOffset nnn => formatA 0xB nnn
  | .rand x nn => formatXI 0xC x nn
  | .draw x y n => formatXYN 0xD x y (BitVec.ofNat 4 n)
  | .skipKeyPressed x => formatXI 0xE x 0x9E
  | .skipKeyNotPressed x => formatXI 0xE x 0xA1
  | .loadDelay x => formatXI 0xF x 0x07
  | .waitKey x => formatXI 0xF x 0x0A
  | .setDelay x => formatXI 0xF x 0x15
  | .setSound x => formatXI 0xF x 0x18
  | .addI x => formatXI 0xF x 0x1E
  | .fontAddr x => formatXI 0xF x 0x29
  | .bcd x => formatXI 0xF x 0x33
  | .storeRegs x => formatXI 0xF x 0x55
  | .loadRegs x => formatXI 0xF x 0x65

/-! ### The opcode map (30_encoding.md R76) -/

/-- The mnemonic of an instruction, as the source names it (30_encoding.md R76, R79). -/
def Instr.mnemonic : Instr → String
  | .clearScreen => "clear-screen"
  | .ret => "return"
  | .jump _ => "jump"
  | .call _ => "call"
  | .skipEqImm _ _ => "skip-eq-imm"
  | .skipNeImm _ _ => "skip-ne-imm"
  | .skipEqReg _ _ => "skip-eq-reg"
  | .setImm _ _ => "set-imm"
  | .addImm _ _ => "add-imm"
  | .setReg _ _ => "set-reg"
  | .orReg _ _ => "or"
  | .andReg _ _ => "and"
  | .xorReg _ _ => "xor"
  | .addReg _ _ => "add-reg"
  | .subReg _ _ => "sub-reg"
  | .shr _ => "shr"
  | .subn _ _ => "subn"
  | .shl _ => "shl"
  | .skipNeReg _ _ => "skip-ne-reg"
  | .setI _ => "set-I"
  | .jumpOffset _ => "jump-offset"
  | .rand _ _ => "rand"
  | .draw _ _ _ => "draw"
  | .skipKeyPressed _ => "skip-key-pressed"
  | .skipKeyNotPressed _ => "skip-key-not-pressed"
  | .loadDelay _ => "load-delay"
  | .waitKey _ => "wait-key"
  | .setDelay _ => "set-delay"
  | .setSound _ => "set-sound"
  | .addI _ => "add-I"
  | .fontAddr _ => "font-addr"
  | .bcd _ => "bcd"
  | .storeRegs _ => "store-regs"
  | .loadRegs _ => "load-regs"

/-- One row of the opcode map: a word w is this instruction when w & mask = bits (30_encoding.md R76, whose
column `match` is `bits` here). -/
structure OpcodeRow where
  mnemonic : String
  bits : Word
  mask : Word
deriving DecidableEq, Repr

/-- The row selects the word (30_encoding.md R76). -/
def OpcodeRow.selects (r : OpcodeRow) (w : Word) : Bool := w &&& r.mask == r.bits

/-- The rows of families 0x0..0x5 (30_encoding.md R76). -/
def controlFlowRows : List OpcodeRow :=
  [ ⟨"clear-screen", 0x00E0, 0xFFFF⟩
  , ⟨"return", 0x00EE, 0xFFFF⟩
  , ⟨"jump", 0x1000, 0xF000⟩
  , ⟨"call", 0x2000, 0xF000⟩
  , ⟨"skip-eq-imm", 0x3000, 0xF000⟩
  , ⟨"skip-ne-imm", 0x4000, 0xF000⟩
  , ⟨"skip-eq-reg", 0x5000, 0xF000⟩ ]

/-- The rows of families 0x6 and 0x7 (30_encoding.md R76). -/
def immediateRows : List OpcodeRow :=
  [ ⟨"set-imm", 0x6000, 0xF000⟩
  , ⟨"add-imm", 0x7000, 0xF000⟩ ]

/-- The rows of family 0x8 (30_encoding.md R76). -/
def aluRows : List OpcodeRow :=
  [ ⟨"set-reg", 0x8000, 0xF00F⟩
  , ⟨"or", 0x8001, 0xF00F⟩
  , ⟨"and", 0x8002, 0xF00F⟩
  , ⟨"xor", 0x8003, 0xF00F⟩
  , ⟨"add-reg", 0x8004, 0xF00F⟩
  , ⟨"sub-reg", 0x8005, 0xF00F⟩
  , ⟨"shr", 0x8006, 0xF00F⟩
  , ⟨"subn", 0x8007, 0xF00F⟩
  , ⟨"shl", 0x800E, 0xF00F⟩ ]

/-- The rows of families 0x9..0xD (30_encoding.md R76). -/
def wordFamilyRows : List OpcodeRow :=
  [ ⟨"skip-ne-reg", 0x9000, 0xF000⟩
  , ⟨"set-I", 0xA000, 0xF000⟩
  , ⟨"jump-offset", 0xB000, 0xF000⟩
  , ⟨"rand", 0xC000, 0xF000⟩
  , ⟨"draw", 0xD000, 0xF000⟩ ]

/-- The rows of family 0xE (30_encoding.md R76). -/
def keyRows : List OpcodeRow :=
  [ ⟨"skip-key-pressed", 0xE09E, 0xF0FF⟩
  , ⟨"skip-key-not-pressed", 0xE0A1, 0xF0FF⟩ ]

/-- The rows of family 0xF (30_encoding.md R76). -/
def systemRows : List OpcodeRow :=
  [ ⟨"load-delay", 0xF007, 0xF0FF⟩
  , ⟨"wait-key", 0xF00A, 0xF0FF⟩
  , ⟨"set-delay", 0xF015, 0xF0FF⟩
  , ⟨"set-sound", 0xF018, 0xF0FF⟩
  , ⟨"add-I", 0xF01E, 0xF0FF⟩
  , ⟨"font-addr", 0xF029, 0xF0FF⟩
  , ⟨"bcd", 0xF033, 0xF0FF⟩
  , ⟨"store-regs", 0xF055, 0xF0FF⟩
  , ⟨"load-regs", 0xF065, 0xF0FF⟩ ]

/-- The complete opcode map, 34 rows in the table's order (30_encoding.md R76). -/
def opcodeMap : List OpcodeRow :=
  controlFlowRows ++ immediateRows ++ aluRows ++ wordFamilyRows ++ keyRows ++ systemRows

end Sys2Proof
end

