-- ==== Sys2Proof/Config.lean ====
section
/-! DEFINITION. What is fixed for a machine: the sizes (00_scope.md R6), the type of the parameter
DRAW_EDGE_POLICY (R7), and the free values of RAND_SOURCE (R7, 40_cycle_driver.md R104). The font table and
the default policy stand in Machine/Params.lean, where a repair may mend them. -/

namespace Sys2Proof.Config

/-- Bytes of memory (00_scope.md R6, 20_memory.md R50): addresses 0x000..0xFFF. -/
abbrev memSize : Nat := 4096

/-- Columns of the bitmap (00_scope.md R6, 10_state.md R31). -/
abbrev columns : Nat := 64

/-- Rows of the bitmap (00_scope.md R6, 10_state.md R31). -/
abbrev rows : Nat := 32

/-- Entries of the return-address stack (00_scope.md R6, 10_state.md R29). -/
abbrev stackDepth : Nat := 16

/-- Program load offset (00_scope.md R6, 40_cycle_driver.md R106). -/
abbrev loadOffset : Nat := 0x200

/-- The longest program image: 0x1000 - 0x200 = 3584 bytes (40_cycle_driver.md R106). -/
abbrev loadMax : Nat := 3584

/-- The parameter `DRAW_EDGE_POLICY` (00_scope.md R7, 44_display.md R193). -/
inductive EdgePolicy where
  | fault
  | wrap
  | clip
deriving DecidableEq, Repr

/-- DESIGN CHOICE (log 2). The free byte of RAND_SOURCE at the n-th step since power-on, where the host has
put no byte of its own on `rand_in` (40_cycle_driver.md R104: "the model treats r as a free draw"). It has no
body: nothing can be proved of its values. -/
opaque randSource : Nat → Byte

end Sys2Proof.Config
end

