-- ==== Sys2Proof/Machine/Params.lean ====
section
/-! DEFINITION. The tables a machine is configured with: the built-in font (20_memory.md R57) and the default of
DRAW_EDGE_POLICY (00_scope.md R7). -/

namespace Sys2Proof.Machine

/-- Glyphs 0..7, five bytes each, one byte a pixel row (20_memory.md R57). Glyph 0 is the source's (its section 8);
the others are UNVERIFIED, log 4: the conventional font, which R57 gives as general knowledge. -/
def fontLow : List Byte :=
  [0xF0, 0x90, 0x90, 0x90, 0xF0] ++   -- 0
  [0x20, 0x60, 0x20, 0x20, 0x70] ++   -- 1
  [0xF0, 0x10, 0xF0, 0x80, 0xF0] ++   -- 2
  [0xF0, 0x10, 0xF0, 0x10, 0xF0] ++   -- 3
  [0x90, 0x90, 0xF0, 0x10, 0x10] ++   -- 4
  [0xF0, 0x80, 0xF0, 0x10, 0xF0] ++   -- 5
  [0xF0, 0x80, 0xF0, 0x90, 0xF0] ++   -- 6
  [0xF0, 0x10, 0x20, 0x40, 0x40]      -- 7

/-- Glyphs 8..F (20_memory.md R57). UNVERIFIED, log 4. -/
def fontHigh : List Byte :=
  [0xF0, 0x90, 0xF0, 0x90, 0xF0] ++   -- 8
  [0xF0, 0x90, 0xF0, 0x10, 0xF0] ++   -- 9
  [0xF0, 0x90, 0xF0, 0x90, 0x90] ++   -- A
  [0xE0, 0x90, 0xE0, 0x90, 0xE0] ++   -- B
  [0xF0, 0x80, 0x80, 0x80, 0xF0] ++   -- C
  [0xE0, 0x90, 0x90, 0x90, 0xE0] ++   -- D
  [0xF0, 0x80, 0xF0, 0x80, 0xF0] ++   -- E
  [0xF0, 0x80, 0xF0, 0x80, 0x80]      -- F

/-- The table `FONT`: 80 bytes, glyph d at 5d..5d+4 (20_memory.md R56, R57). -/
def font : List Byte := fontLow ++ fontHigh

/-- The default of DRAW_EDGE_POLICY (00_scope.md R7, 44_display.md R193). -/
def defaultEdgePolicy : Config.EdgePolicy := .fault

end Sys2Proof.Machine
end

