-- ==== Sys2Proof/Machine/State.lean ====
section
/-! DEFINITION. The state of the core (10_state.md), what stands around it, and the state after reset (R36). -/

namespace Sys2Proof.Machine

/-- The code in FAULT (10_state.md R33, 60_exceptions.md R230). Codes 8..15 are reserved and never latched: they
have no constructor. The numbers are `FaultCode.code` in Machine/Ops.lean. -/
inductive FaultCode where
  /-- 0 NONE. -/
  | noFault
  /-- 1 UNKNOWN_OPCODE, raised by decode (30_encoding.md R77). -/
  | unknownOpcode
  /-- 2 STACK_OVERFLOW, raised by `call` (41_control_flow.md R123). -/
  | stackOverflow
  /-- 3 STACK_UNDERFLOW, raised by `return` (41_control_flow.md R121). -/
  | stackUnderflow
  /-- 4 DRAW_OUT_OF_BOUNDS, raised by `draw` (44_display.md R193). -/
  | drawOutOfBounds
  /-- 5 MEMORY_OUT_OF_BOUNDS, raised by `bcd`, `store-regs`, `load-regs`, `draw` (20_memory.md R54). -/
  | memoryOutOfBounds
  /-- 6 FETCH_OUT_OF_BOUNDS, raised by the fetch (40_cycle_driver.md R102). -/
  | fetchOutOfBounds
  /-- 7 KEY_INDEX_OUT_OF_RANGE, raised by the key skips (45_timers_input.md R210). -/
  | keyIndexOutOfRange
deriving DecidableEq, Repr

/-- The output port `status`: the result of the last step (40_cycle_driver.md R108). -/
inductive Status where
  | ok
  | stalled
  | fault
deriving DecidableEq, Repr

/-- Where the boot order of 70_reset_and_hazards.md R261 stands: after reset, after the one program load, after
the first step. The model's own field (log 9). -/
inductive Phase where
  | fresh
  | loaded
  | running
deriving DecidableEq, Repr

/-- What the host supplies with one step: the key vector and the random byte (40_cycle_driver.md R104, R112). -/
structure StepInput where
  keys : Word
  rand : Byte
deriving DecidableEq, Repr

/-- Memory: the cells that differ from the reset contents, by strictly rising address (`Memory.wf`). -/
abbrev Memory := List Host.Cell

/-- The state. The first twelve fields are the core's (10_state.md section 1, R34); the last five are the model's
own (logs 1, 2, 3, 8, 9). -/
structure State where
  /-- V[0..15] (10_state.md R20); VF is V[15] (R21). -/
  v : Vector Byte 16
  /-- PC (10_state.md R25). -/
  pc : Word
  /-- I, the index register, never masked to 12 bits (10_state.md R28). -/
  i : Word
  /-- SP, 0..16 (10_state.md R29). -/
  sp : Fin 17
  /-- STACK[0..15] (10_state.md R29). -/
  stack : Vector Word 16
  /-- DT, the delay timer (10_state.md R30). -/
  dt : Byte
  /-- ST, the sound timer (10_state.md R30). -/
  st : Byte
  /-- BM: row y holds cell (x, y) at its bit x (10_state.md R31, row-major). -/
  bm : Vector (BitVec 64) 32
  /-- KEY: KEY[k] is bit k (10_state.md R32, 40_cycle_driver.md R108). -/
  key : Word
  /-- mem[0..4095] (20_memory.md R50), less what it holds at reset. -/
  mem : Memory
  /-- FAULT (10_state.md R33). -/
  fault : FaultCode
  /-- FAULT_INFO (10_state.md R33, 60_exceptions.md R232). -/
  faultInfo : Word
  /-- The `status` port (40_cycle_driver.md R108). The model's own field, log 8. -/
  status : Status
  /-- The parameter DRAW_EDGE_POLICY of this machine (00_scope.md R7); no step writes it. The model's own field, log 1. -/
  edgePolicy : Config.EdgePolicy
  /-- The host's inputs to the coming steps, oldest first (40_cycle_driver.md R112). The model's own field, log 3. -/
  inputs : List StepInput
  /-- How many bytes RAND_SOURCE has supplied, one a step (40_cycle_driver.md R104). The model's own field, log 2. -/
  draws : Nat
  /-- Where the boot order stands (70_reset_and_hazards.md R261). The model's own field, log 9. -/
  phase : Phase
deriving DecidableEq, Repr

/-- Why a step stops the machine without a next state: NO CONSTRUCTOR. Every fatal condition of the spec is a latch
that the step commits (60_exceptions.md R231), so it is a next state, and a faulted core's step does nothing
(40_cycle_driver.md R109), which is a next state too. Nobody raises one (safe: there is none). -/
inductive Fault
deriving DecidableEq, Repr

/-- Why the model gives no outcome. -/
inductive Refusal where
  /-- Raised by an arm of `exec` for an instruction that has no meaning yet; no arm raises it now. Safe: the model
  stops where the core goes on. -/
  | notModelled (mnemonic : String)
  /-- Raised by the load port (Machine/HostPort.lean) for a second load or a load after the first step: "the host may
  load only after reset and before the first step" (40_cycle_driver.md R106, 70_reset_and_hazards.md R261), and the
  spec gives such a load no effect. Safe: no claim can rest on its effect. No step and no instruction raises it. -/
  | loadOutOfOrder
deriving DecidableEq, Repr

/-- What a step answers in this model. -/
abbrev StepOutcome := Host.Outcome State Fault Refusal

/-- The state after reset (10_state.md R36, 70_reset_and_hazards.md R260). Memory lists nothing: every address holds
its reset contents. The last five fields are the model's own (logs 1, 2, 3, 8, 9). -/
def State.reset : State where
  v := Vector.replicate 16 0
  pc := 0x200
  i := 0
  sp := 0
  stack := Vector.replicate 16 0
  dt := 0
  st := 0
  bm := Vector.replicate 32 0
  key := 0
  mem := []
  fault := .noFault
  faultInfo := 0
  status := .ok
  edgePolicy := defaultEdgePolicy
  inputs := []
  draws := 0
  phase := .fresh

end Sys2Proof.Machine
end

