-- ==== Sys2Proof/Machine/Ops.lean ====
section
/-! DEFINITION. The named operations over memory, registers and the other state, and the three ways an instruction
ends: complete, stall, fault (00_scope.md R12, 40_cycle_driver.md R100). -/

namespace Sys2Proof.Machine

/-! ### Memory (20_memory.md) -/

/-- What an address that nothing has been stored to reads as: the font at 0..79, 0x00 elsewhere (20_memory.md R56,
R57; 10_state.md R36). -/
def resetByte (a : Nat) : Byte := font.getD a 0

/-- The listed byte at an address, if any. -/
def Memory.lookup : Memory → Nat → Option Byte
  | [], _ => none
  | (k, b) :: m, a => if k = a then some b else Memory.lookup m a

/-- The byte at an address: the most recent write, or the reset value (20_memory.md R60). -/
def Memory.read (m : Memory) (a : Nat) : Byte := (Memory.lookup m a).getD (resetByte a)

/-- List a byte at an address, keeping the addresses rising. -/
def Memory.insert : Memory → Nat → Byte → Memory
  | [], a, b => [(a, b)]
  | (k, c) :: m, a, b =>
    if a < k then (a, b) :: (k, c) :: m
    else if a = k then (a, b) :: m
    else (k, c) :: Memory.insert m a b

/-- Take an address off the list, wherever it stands. -/
def Memory.erase : Memory → Nat → Memory
  | [], _ => []
  | (k, c) :: m, a => if k = a then Memory.erase m a else (k, c) :: Memory.erase m a

/-- Store one byte (20_memory.md R52, R58: every address 0x000..0xFFF is writable). An address above 0xFFF has no
cell: the callers check the range first (R54), and nothing would be stored. -/
def Memory.write (m : Memory) (a : Nat) (b : Byte) : Memory :=
  if a < Config.memSize then
    if b = resetByte a then Memory.erase m a else Memory.insert m a b
  else m

/-- Store bytes at consecutive ascending addresses, in that order (20_memory.md R52, R60). -/
def Memory.writeBytes : Memory → Nat → List Byte → Memory
  | m, _, [] => m
  | m, a, b :: bs => Memory.writeBytes (Memory.write m a b) (a + 1) bs

/-- Read bytes at consecutive ascending addresses (20_memory.md R52). -/
def Memory.readBytes (m : Memory) (a : Nat) : Nat → List Byte
  | 0 => []
  | n + 1 => Memory.read m a :: Memory.readBytes m (a + 1) n

/-- The canonical form from an address on: addresses rise strictly, none is above 0xFFF, and none lists what the
address reads as anyway. -/
def Memory.wfFrom : Nat → Memory → Bool
  | _, [] => true
  | lo, (k, b) :: m =>
    decide (lo ≤ k) && decide (k < Config.memSize) && decide (b ≠ resetByte k) && Memory.wfFrom (k + 1) m

/-- The canonical form of a memory, which makes equal memories equal lists. -/
def Memory.wf (m : Memory) : Bool := Memory.wfFrom 0 m

/-- An access to `n` bytes from `base`, both unbounded integers, stays within 0xFFF; the highest address is checked
before any access is made (20_memory.md R54). No byte is no access. -/
def accessFits (base n : Nat) : Bool := n = 0 || base + n ≤ Config.memSize

/-- The byte of the state's memory at an address. -/
def State.readByte (s : State) (a : Nat) : Byte := Memory.read s.mem a

/-- Store bytes from an address on. -/
def State.writeBytes (s : State) (a : Nat) (bs : List Byte) : State := { s with mem := Memory.writeBytes s.mem a bs }

/-! ### Registers (10_state.md) -/

/-- VF, the register that is also the flag (10_state.md R21). -/
def flagReg : RegIdx := 0xF

/-- V[x] (10_state.md R20). -/
def State.reg (s : State) (x : RegIdx) : Byte := s.v[x.toNat]'x.isLt

/-- V[x] <- b (10_state.md R20). -/
def State.setReg (s : State) (x : RegIdx) (b : Byte) : State := { s with v := s.v.set x.toNat b x.isLt }

/-- I <- w; nothing masks it to 12 bits (10_state.md R28). -/
def State.setI (s : State) (w : Word) : State := { s with i := w }

/-- The bytes of V[0], …, V[x], in that order (43_index_memory.md R174). -/
def State.regsUpTo (s : State) (x : RegIdx) : List Byte :=
  (List.range (x.toNat + 1)).map fun k => s.reg (BitVec.ofNat 4 k)

/-- V[k] <- mem[a + k] for k in 0..x; the registers above x keep their values (43_index_memory.md R175). -/
def State.loadRegsUpTo (s : State) (x : RegIdx) (a : Nat) : State :=
  { s with v := Vector.ofFn fun k => if k.val ≤ x.toNat then s.readByte (a + k.val) else s.v[k.val] }

/-- DT <- b (45_timers_input.md R215). -/
def State.setDelay (s : State) (b : Byte) : State := { s with dt := b }

/-- ST <- b (45_timers_input.md R216). -/
def State.setSound (s : State) (b : Byte) : State := { s with st := b }

/-! ### The return-address stack (10_state.md R29) -/

/-- SP = 16: full. -/
def State.stackFull (s : State) : Bool := s.sp = 16

/-- SP = 0: empty. -/
def State.stackEmpty (s : State) : Bool := s.sp = 0

/-- STACK[SP] <- w, then SP <- SP + 1; made only when the stack is not full (41_control_flow.md R123). -/
def State.push (s : State) (w : Word) : State :=
  { s with stack := s.stack.setIfInBounds s.sp.val w, sp := Fin.ofNat 17 (s.sp.val + 1) }

/-- STACK[SP - 1], the entry `return` reads; made only when the stack is not empty (41_control_flow.md R121). -/
def State.top (s : State) : Word := s.stack.getD (s.sp.val - 1) 0

/-- SP <- SP - 1; the entry is not cleared (10_state.md R29). -/
def State.pop (s : State) : State := { s with sp := Fin.ofNat 17 (s.sp.val - 1) }

/-! ### The bitmap (10_state.md R31) -/

/-- BM[x][y]; false outside the grid. -/
def State.pixel (s : State) (x y : Nat) : Bool := (s.bm.getD y 0).getLsbD x

/-- BM[x][y] <- BM[x][y] ^ 1; nothing outside the grid. -/
def State.togglePixel (s : State) (x y : Nat) : State :=
  { s with bm := s.bm.setIfInBounds y (s.bm.getD y 0 ^^^ BitVec.twoPow 64 x) }

/-- Every cell 0 (44_display.md R190). -/
def State.clearBitmap (s : State) : State := { s with bm := Vector.replicate 32 0 }

/-! ### The ways an instruction ends (00_scope.md R12, 40_cycle_driver.md R100) -/

/-- The decay of one timer: decremented if nonzero, never below 0 (10_state.md R30, 40_cycle_driver.md R103). -/
def decay (t : Byte) : Byte := if t = 0 then 0 else t - 1

/-- `complete`: PC takes next_pc and both timers decay from the values the instruction left (40_cycle_driver.md R100,
R101, R103); the status port says OK (R108). -/
def State.completed (s : State) (nextPc : Word) : State :=
  { s with pc := nextPc, dt := decay s.dt, st := decay s.st, status := .ok }

/-- `stall`: nothing is committed, PC and the timers stay (40_cycle_driver.md R105); the status port says STALLED (R108). -/
def State.stalled (s : State) : State := { s with status := .stalled }

/-- Taking a fault, the one place where it is done: `latch(code, info)` writes FAULT and FAULT_INFO and nothing else
(40_cycle_driver.md R100, 60_exceptions.md R231, R235); the status port says FAULT (R108). There is no return from it:
only reset leaves this state (60_exceptions.md R233, R236; `State.portReset` in Machine/HostPort.lean). -/
def State.latched (s : State) (code : FaultCode) (info : Word) : State :=
  { s with fault := code, faultInfo := info, status := .fault }

/-- End an instruction with `complete` (00_scope.md R12). -/
def complete (s : State) (nextPc : Word) : StepOutcome := .next (s.completed nextPc)

/-- End an instruction with `stall` (00_scope.md R12). -/
def stall (s : State) : StepOutcome := .next s.stalled

/-- End an instruction with `raise Fault(code, info)` (00_scope.md R12): a next state with the latch written
(log 7). The instruction's info is its word (60_exceptions.md R232). -/
def raiseFault (s : State) (code : FaultCode) (info : Word) : StepOutcome := .next (s.latched code info)

/-- The number of a fault code (60_exceptions.md R230). -/
def FaultCode.code : FaultCode → BitVec 4
  | .noFault => 0
  | .unknownOpcode => 1
  | .stackOverflow => 2
  | .stackUnderflow => 3
  | .drawOutOfBounds => 4
  | .memoryOutOfBounds => 5
  | .fetchOutOfBounds => 6
  | .keyIndexOutOfRange => 7

/-- The number on the `status` port, 2 bits; the spec names the values and gives no numbers (40_cycle_driver.md R108):
DESIGN CHOICE, log 8. -/
def Status.code : Status → BitVec 2
  | .ok => 0
  | .stalled => 1
  | .fault => 2

/-! ### The host's inputs to a step (40_cycle_driver.md R104, R112) -/

/-- The host writes KEY before the step, where it has supplied a vector for this step; otherwise KEY holds what the
host last wrote (10_state.md R32; log 3). -/
def State.sampleKeys (s : State) : State :=
  match s.inputs with
  | [] => s
  | next :: _ => { s with key := next.keys }

/-- r, the random byte of this step (40_cycle_driver.md R104): the host's, where it has supplied one, or else a free
draw (log 2). -/
def State.randByte (s : State) : Byte :=
  match s.inputs with
  | [] => Config.randSource s.draws
  | next :: _ => next.rand

/-- The step is over: its inputs are used up, and the boot order has passed the first step (40_cycle_driver.md R104,
70_reset_and_hazards.md R261). Only the model's own fields change. -/
def State.afterStep (s : State) : State :=
  { s with inputs := s.inputs.tail, draws := s.draws + 1, phase := .running }

/-! ### Fetch (20_memory.md R53, 40_cycle_driver.md R102) -/

/-- PC ≤ 0xFFE: both bytes of the word lie in memory (40_cycle_driver.md R102). -/
def State.fetchFits (s : State) : Bool := s.pc.toNat + 1 < Config.memSize

/-- The word at PC: hi <- MemRead(PC), lo <- MemRead(PC + 1), hi : lo (20_memory.md R53). -/
def State.fetchWord (s : State) : Word := wordOfBytes (s.readByte s.pc.toNat) (s.readByte (s.pc.toNat + 1))

/-- The state with a word's two bytes stored where the next fetch reads them (20_memory.md R53). -/
def State.placeWord (s : State) (w : Word) : State := s.writeBytes s.pc.toNat [hiByte w, loByte w]

end Sys2Proof.Machine
end

