-- ==== Sys2Proof/Machine/Flags.lean ====
section
/-! DEFINITION. Every computation of the flag VF (10_state.md R24), each from the operands before VF is written
(42_alu.md R140), and the write of the flag. -/

namespace Sys2Proof.Machine

/-- A flag value: 1 or 0 (10_state.md R24). -/
def flagByte (b : Bool) : Byte := if b then 1 else 0

/-- VF <- 1 or 0 (10_state.md R21, R24). -/
def State.setFlag (s : State) (b : Bool) : State := s.setReg flagReg (flagByte b)

/-- The carry of `add-reg`: V[Y] > 255 - V[X] (42_alu.md R147). -/
def addCarry (vx vy : Byte) : Bool := vy.toNat > 255 - vx.toNat

/-- No borrow in a - b: unless b > a (`sub-reg` with a = V[X], b = V[Y], 42_alu.md R148; `subn` with them exchanged,
R150). -/
def noBorrow (a b : Byte) : Bool := !(b.toNat > a.toNat)

/-- The bit `shr` shifts out, bit 0 (42_alu.md R149). -/
def shrOut (vx : Byte) : Bool := vx.getLsbD 0

/-- The bit `shl` shifts out, bit 7 (42_alu.md R151). -/
def shlOut (vx : Byte) : Bool := vx.getLsbD 7

/-- The flag of `add-I`: the 16-bit sum lies above 0xFFF (43_index_memory.md R171). -/
def indexExceeds (sum : Word) : Bool := sum.toNat > 0xFFF

end Sys2Proof.Machine
end

