-- ==== Sys2Proof/Machine/Operands.lean ====
section
/-! DEFINITION. Every operand form: the zero-extended immediates and registers (30_encoding.md R72), the addresses
reached through I (43_index_memory.md R169), the next-pc forms (40_cycle_driver.md R101), the key operands
(45_timers_input.md R210, R214). -/

namespace Sys2Proof.Machine

/-- NNN, zero-extended to 16 bits (30_encoding.md R72). -/
def addrOf (nnn : Imm12) : Word := nnn.setWidth 16

/-- A register's value, zero-extended to 16 bits (00_scope.md R9). -/
def wideOf (b : Byte) : Word := b.setWidth 16

/-- PC + 2, the default (40_cycle_driver.md R101). -/
def State.following (s : State) : Word := s.pc + 2

/-- PC + 4 where the skip is taken, else PC + 2 (41_control_flow.md R120). -/
def State.skipIf (s : State) (taken : Bool) : Word := if taken then s.pc + 4 else s.following

/-- I as the unbounded integer that addresses are formed from (43_index_memory.md R169). -/
def State.base (s : State) : Nat := s.i.toNat

/-- How many bytes `store-regs VX` and `load-regs VX` move: X + 1 (20_memory.md R59). -/
def regSpan (x : RegIdx) : Nat := x.toNat + 1

/-- I after `store-regs VX` and `load-regs VX`: (I + X + 1) mod 65536 (43_index_memory.md R174, R175). -/
def State.advancedI (s : State) (x : RegIdx) : Word := s.i + BitVec.ofNat 16 (regSpan x)

/-- V[X] names one of the sixteen keys (45_timers_input.md R210). -/
def keyIndexFits (b : Byte) : Bool := b.toNat ≤ 0xF

/-- KEY[k] (10_state.md R32). -/
def State.keyPressed (s : State) (k : Nat) : Bool := s.key.getLsbD k

/-- The least k in 0..15 with KEY[k] = 1, or none (45_timers_input.md R214). -/
def State.leastKey (s : State) : Option Nat := (List.range 16).find? fun k => s.keyPressed k

/-- The three decimal digits of a byte, hundreds first (43_index_memory.md R173). -/
def decimalDigits (b : Byte) : List Byte := [b / 100, b / 10 % 10, b % 10]

end Sys2Proof.Machine
end

