-- ==== Sys2Proof/Machine/Alu.lean ====
section
/-! DEFINITION. The register and ALU instructions (42_alu.md). The flag-writing ones write VF first and compute the
result from the register file after that write (00_scope.md R11, 42_alu.md R140; log 10). -/

namespace Sys2Proof.Machine

/-- V[X] <- b and PC + 2: how every instruction of this family ends (42_alu.md, 40_cycle_driver.md R101). -/
def writeResult (s : State) (x : RegIdx) (b : Byte) : StepOutcome := complete (s.setReg x b) s.following

/-- `set-imm VX, NN` (42_alu.md R141). -/
def execSetImm (x : RegIdx) (nn : Byte) (s : State) : StepOutcome := writeResult s x nn

/-- `add-imm VX, NN`: modulo 256, no flag (42_alu.md R142). -/
def execAddImm (x : RegIdx) (nn : Byte) (s : State) : StepOutcome := writeResult s x (s.reg x + nn)

/-- `set-reg VX, VY` (42_alu.md R143). -/
def execSetReg (x y : RegIdx) (s : State) : StepOutcome := writeResult s x (s.reg y)

/-- `or VX, VY` (42_alu.md R144). -/
def execOrReg (x y : RegIdx) (s : State) : StepOutcome := writeResult s x (s.reg x ||| s.reg y)

/-- `and VX, VY` (42_alu.md R145). -/
def execAndReg (x y : RegIdx) (s : State) : StepOutcome := writeResult s x (s.reg x &&& s.reg y)

/-- `xor VX, VY` (42_alu.md R146). -/
def execXorReg (x y : RegIdx) (s : State) : StepOutcome := writeResult s x (s.reg x ^^^ s.reg y)

/-- `add-reg VX, VY` (42_alu.md R147). -/
def execAddReg (x y : RegIdx) (s : State) : StepOutcome :=
  let s1 := s.setFlag (addCarry (s.reg x) (s.reg y))
  writeResult s1 x (s1.reg x + s1.reg y)

/-- `sub-reg VX, VY` (42_alu.md R148). -/
def execSubReg (x y : RegIdx) (s : State) : StepOutcome :=
  let s1 := s.setFlag (noBorrow (s.reg x) (s.reg y))
  writeResult s1 x (s1.reg x - s1.reg y)

/-- `shr VX` (42_alu.md R149). -/
def execShr (x : RegIdx) (s : State) : StepOutcome :=
  let s1 := s.setFlag (shrOut (s.reg x))
  writeResult s1 x (s1.reg x >>> 1)

/-- `subn VX, VY` (42_alu.md R150). -/
def execSubn (x y : RegIdx) (s : State) : StepOutcome :=
  let s1 := s.setFlag (noBorrow (s.reg y) (s.reg x))
  writeResult s1 x (s1.reg y - s1.reg x)

/-- `shl VX` (42_alu.md R151). -/
def execShl (x : RegIdx) (s : State) : StepOutcome :=
  let s1 := s.setFlag (shlOut (s.reg x))
  writeResult s1 x (s1.reg x <<< 1)

/-- `rand VX, NN`: r AND NN, r the random byte of the step (42_alu.md R152, 40_cycle_driver.md R104; log 2). -/
def execRand (x : RegIdx) (nn : Byte) (s : State) : StepOutcome := writeResult s x (s.randByte &&& nn)

end Sys2Proof.Machine
end

