-- ==== Sys2Proof/Machine/ControlFlow.lean ====
section
/-! DEFINITION. Control flow and the return-address stack (41_control_flow.md). -/

namespace Sys2Proof.Machine

/-- `return` (41_control_flow.md R121). -/
def execRet (s : State) : StepOutcome :=
  if s.stackEmpty then raiseFault s .stackUnderflow (encode .ret)
  else complete s.pop (s.top + 2)

/-- `jump NNN` (41_control_flow.md R122). -/
def execJump (nnn : Imm12) (s : State) : StepOutcome := complete s (addrOf nnn)

/-- `call NNN`: it pushes its own address (41_control_flow.md R123). -/
def execCall (nnn : Imm12) (s : State) : StepOutcome :=
  if s.stackFull then raiseFault s .stackOverflow (encode (.call nnn))
  else complete (s.push s.pc) (addrOf nnn)

/-- `skip-eq-imm VX, NN` (41_control_flow.md R124). -/
def execSkipEqImm (x : RegIdx) (nn : Byte) (s : State) : StepOutcome := complete s (s.skipIf (s.reg x = nn))

/-- `skip-ne-imm VX, NN` (41_control_flow.md R125). -/
def execSkipNeImm (x : RegIdx) (nn : Byte) (s : State) : StepOutcome := complete s (s.skipIf (s.reg x ≠ nn))

/-- `skip-eq-reg VX, VY` (41_control_flow.md R126). -/
def execSkipEqReg (x y : RegIdx) (s : State) : StepOutcome := complete s (s.skipIf (s.reg x = s.reg y))

/-- `skip-ne-reg VX, VY` (41_control_flow.md R127). -/
def execSkipNeReg (x y : RegIdx) (s : State) : StepOutcome := complete s (s.skipIf (s.reg x ≠ s.reg y))

/-- `jump-offset NNN`: NNN + V[0], not masked (41_control_flow.md R128). -/
def execJumpOffset (nnn : Imm12) (s : State) : StepOutcome := complete s (addrOf nnn + wideOf (s.reg 0))

end Sys2Proof.Machine
end

