-- ==== Sys2Proof/Machine/Display.lean ====
section
/-! DEFINITION. The bitmap and the sprite-draw unit (44_display.md). -/

namespace Sys2Proof.Machine

/-- `clear-screen` (44_display.md R190). -/
def execClearScreen (s : State) : StepOutcome := complete s.clearBitmap s.following

/-- The set pixels of one sprite row: column c is bit 7 - c, the most significant bit leftmost (44_display.md R191;
UNVERIFIED, log 6). Coordinates are unbounded integers (R191; log 13). -/
def rowPixels (x0 y : Nat) (row : Byte) : List (Nat × Nat) :=
  (List.range 8).filterMap fun c => if row.getLsbD (7 - c) then some (x0 + c, y) else none

/-- P, the set pixels of a sprite, rows from y0 down, columns left to right (44_display.md R191). -/
def spritePixels (x0 : Nat) : Nat → List Byte → List (Nat × Nat)
  | _, [] => []
  | y, row :: rows => rowPixels x0 y row ++ spritePixels x0 (y + 1) rows

/-- (x, y) is a cell of the 64 x 32 grid (10_state.md R31). -/
def inGrid (p : Nat × Nat) : Bool := p.1 < Config.columns && p.2 < Config.rows

/-- EdgePolicy(P); `none` is DRAW_OUT_OF_BOUNDS (44_display.md R193). -/
def applyEdgePolicy (policy : Config.EdgePolicy) (ps : List (Nat × Nat)) : Option (List (Nat × Nat)) :=
  match policy with
  | .fault => if ps.all inGrid then some ps else none
  | .wrap => some (ps.map fun p => (p.1 % Config.columns, p.2 % Config.rows))
  | .clip => some (ps.filter inGrid)

/-- One pixel of the blit: a cell that is 1 sets VF, sticky, and the cell is inverted (44_display.md R191). -/
def plotPixel (s : State) (p : Nat × Nat) : State :=
  (if s.pixel p.1 p.2 then s.setFlag true else s).togglePixel p.1 p.2

/-- VF <- 0 and then the pixels in the order listed (44_display.md R191). -/
def blit (s : State) (ps : List (Nat × Nat)) : State := ps.foldl plotPixel (s.setFlag false)

/-- P for `draw VX, VY, N`, from the operands latched before VF is reset (44_display.md R191, R192; log 14). -/
def State.drawPixels (s : State) (x y : RegIdx) (n : Nat) : List (Nat × Nat) :=
  spritePixels (s.reg x).toNat (s.reg y).toNat (Memory.readBytes s.mem s.base n)

/-- `draw VX, VY, N`: the memory check before the edge check (44_display.md R191, R193; 60_exceptions.md R234). -/
def execDraw (x y : RegIdx) (n : Nat) (s : State) : StepOutcome :=
  if accessFits s.base n then
    match applyEdgePolicy s.edgePolicy (s.drawPixels x y n) with
    | some ps => complete (blit s ps) s.following
    | none => raiseFault s .drawOutOfBounds (encode (.draw x y n))
  else raiseFault s .memoryOutOfBounds (encode (.draw x y n))

end Sys2Proof.Machine
end

