-- ==== Sys2Proof/Machine/IndexMemory.lean ====
section
/-! DEFINITION. The index register and the memory instructions (43_index_memory.md). -/

namespace Sys2Proof.Machine

/-- `set-I NNN` (43_index_memory.md R170). -/
def execSetI (nnn : Imm12) (s : State) : StepOutcome := complete (s.setI (addrOf nnn)) s.following

/-- `add-I VX`: VF first, from the 16-bit sum; then I, from V[X] after that write (43_index_memory.md R171; logs 10, 11). -/
def execAddI (x : RegIdx) (s : State) : StepOutcome :=
  let s1 := s.setFlag (indexExceeds (s.i + wideOf (s.reg x)))
  complete (s1.setI (s1.i + wideOf (s1.reg x))) s.following

/-- `font-addr VX`: V[X] * 5, not masked (43_index_memory.md R172; log 12). -/
def execFontAddr (x : RegIdx) (s : State) : StepOutcome := complete (s.setI (wideOf (s.reg x) * 5)) s.following

/-- `bcd VX` (43_index_memory.md R173). -/
def execBcd (x : RegIdx) (s : State) : StepOutcome :=
  if accessFits s.base 3 then complete (s.writeBytes s.base (decimalDigits (s.reg x))) s.following
  else raiseFault s .memoryOutOfBounds (encode (.bcd x))

/-- `store-regs VX` (43_index_memory.md R174). -/
def execStoreRegs (x : RegIdx) (s : State) : StepOutcome :=
  if accessFits s.base (regSpan x) then
    complete ((s.writeBytes s.base (s.regsUpTo x)).setI (s.advancedI x)) s.following
  else raiseFault s .memoryOutOfBounds (encode (.storeRegs x))

/-- `load-regs VX` (43_index_memory.md R175). -/
def execLoadRegs (x : RegIdx) (s : State) : StepOutcome :=
  if accessFits s.base (regSpan x) then
    complete ((s.loadRegsUpTo x s.base).setI (s.advancedI x)) s.following
  else raiseFault s .memoryOutOfBounds (encode (.loadRegs x))

end Sys2Proof.Machine
end

