-- ==== Sys2Proof/Machine/TimersInput.lean ====
section
/-! DEFINITION. The timer and input instructions (45_timers_input.md). -/

namespace Sys2Proof.Machine

/-- `skip-key-pressed VX` (45_timers_input.md R210, R211). -/
def execSkipKeyPressed (x : RegIdx) (s : State) : StepOutcome :=
  if keyIndexFits (s.reg x) then complete s (s.skipIf (s.keyPressed (s.reg x).toNat))
  else raiseFault s .keyIndexOutOfRange (encode (.skipKeyPressed x))

/-- `skip-key-not-pressed VX` (45_timers_input.md R210, R212). -/
def execSkipKeyNotPressed (x : RegIdx) (s : State) : StepOutcome :=
  if keyIndexFits (s.reg x) then complete s (s.skipIf (!s.keyPressed (s.reg x).toNat))
  else raiseFault s .keyIndexOutOfRange (encode (.skipKeyNotPressed x))

/-- `load-delay VX`: DT before this step's decay (45_timers_input.md R213, 40_cycle_driver.md R103). -/
def execLoadDelay (x : RegIdx) (s : State) : StepOutcome := complete (s.setReg x s.dt) s.following

/-- `wait-key VX`: the least pressed key, or the stall (45_timers_input.md R214, 40_cycle_driver.md R105). -/
def execWaitKey (x : RegIdx) (s : State) : StepOutcome :=
  match s.leastKey with
  | some k => complete (s.setReg x (BitVec.ofNat 8 k)) s.following
  | none => stall s

/-- `set-delay VX`; the same step decays the new value (45_timers_input.md R215). -/
def execSetDelay (x : RegIdx) (s : State) : StepOutcome := complete (s.setDelay (s.reg x)) s.following

/-- `set-sound VX`; ST drives no output (45_timers_input.md R216). -/
def execSetSound (x : RegIdx) (s : State) : StepOutcome := complete (s.setSound (s.reg x)) s.following

end Sys2Proof.Machine
end

