-- ==== Sys2Proof/Machine/Dispatch.lean ====
section
/-! DEFINITION. The dispatch: one arm per instruction, in the opcode map's order (30_encoding.md R76). -/

namespace Sys2Proof.Machine

def exec (i : Instr) (s : State) : Host.Outcome State Fault Refusal :=
  match i with
  | .clearScreen => Sys2Proof.Machine.execClearScreen s
  | .ret => Sys2Proof.Machine.execRet s
  | .jump nnn => Sys2Proof.Machine.execJump nnn s
  | .call nnn => Sys2Proof.Machine.execCall nnn s
  | .skipEqImm x nn => Sys2Proof.Machine.execSkipEqImm x nn s
  | .skipNeImm x nn => Sys2Proof.Machine.execSkipNeImm x nn s
  | .skipEqReg x y => Sys2Proof.Machine.execSkipEqReg x y s
  | .setImm x nn => Sys2Proof.Machine.execSetImm x nn s
  | .addImm x nn => Sys2Proof.Machine.execAddImm x nn s
  | .setReg x y => Sys2Proof.Machine.execSetReg x y s
  | .orReg x y => Sys2Proof.Machine.execOrReg x y s
  | .andReg x y => Sys2Proof.Machine.execAndReg x y s
  | .xorReg x y => Sys2Proof.Machine.execXorReg x y s
  | .addReg x y => Sys2Proof.Machine.execAddReg x y s
  | .subReg x y => Sys2Proof.Machine.execSubReg x y s
  | .shr x => Sys2Proof.Machine.execShr x s
  | .subn x y => Sys2Proof.Machine.execSubn x y s
  | .shl x => Sys2Proof.Machine.execShl x s
  | .skipNeReg x y => Sys2Proof.Machine.execSkipNeReg x y s
  | .setI nnn => Sys2Proof.Machine.execSetI nnn s
  | .jumpOffset nnn => Sys2Proof.Machine.execJumpOffset nnn s
  | .rand x nn => Sys2Proof.Machine.execRand x nn s
  | .draw x y n => Sys2Proof.Machine.execDraw x y n s
  | .skipKeyPressed x => Sys2Proof.Machine.execSkipKeyPressed x s
  | .skipKeyNotPressed x => Sys2Proof.Machine.execSkipKeyNotPressed x s
  | .loadDelay x => Sys2Proof.Machine.execLoadDelay x s
  | .waitKey x => Sys2Proof.Machine.execWaitKey x s
  | .setDelay x => Sys2Proof.Machine.execSetDelay x s
  | .setSound x => Sys2Proof.Machine.execSetSound x s
  | .addI x => Sys2Proof.Machine.execAddI x s
  | .fontAddr x => Sys2Proof.Machine.execFontAddr x s
  | .bcd x => Sys2Proof.Machine.execBcd x s
  | .storeRegs x => Sys2Proof.Machine.execStoreRegs x s
  | .loadRegs x => Sys2Proof.Machine.execLoadRegs x s

end Sys2Proof.Machine
end

