-- ==== Sys2Proof/Machine/Driver.lean ====
section
/-! DEFINITION. The cycle driver: fetch, decode, execute (40_cycle_driver.md R100). -/

namespace Sys2Proof.Machine

/-- The model's bookkeeping around an outcome: the step's inputs are used up (`State.afterStep`). -/
def finishStep : StepOutcome → StepOutcome
  | .next s => .next s.afterStep
  | .fault r => .fault r
  | .refused r => .refused r

/-- Fetch, decode and execute, the first fault that applies in the order fetch, decode, the instruction's own
(40_cycle_driver.md R100, R102; 60_exceptions.md R234). FAULT_INFO is PC for the fetch and the word for decode
(60_exceptions.md R232). -/
def runFetched (s : State) : StepOutcome :=
  if s.fetchFits then
    match decodeWord s.fetchWord with
    | some i => exec i s
    | none => raiseFault s .unknownOpcode s.fetchWord
  else raiseFault s .fetchOutOfBounds s.pc

/-- One step (40_cycle_driver.md R100). The host's inputs are on the ports first (R112). While FAULT ≠ 0 it does
nothing (R109). -/
def cycle (s : State) : StepOutcome :=
  if s.fault = .noFault then finishStep (runFetched s.sampleKeys) else .next s

end Sys2Proof.Machine
end

