-- ==== Sys2Proof/Machine/Step.lean ====
section
/-! DEFINITION. The step, and the word it runs next. -/

namespace Sys2Proof.Machine

/-- One step (40_cycle_driver.md R100). -/
def step (s : State) : Host.Outcome State Fault Refusal := cycle s

/-- `s` with the instruction whose bits are `w` stored where the next step fetches: at PC and PC + 1, big-endian
(20_memory.md R53). The bits from `nbits` up are 0; an instruction is 16 bits (30_encoding.md R70). Nothing else is
changed; log 9 says how a program comes to run. -/
def State.withFetchWord (s : State) (nbits w : Nat) : State := s.placeWord (BitVec.ofNat 16 (w % 2 ^ nbits))

end Sys2Proof.Machine
end

