-- ==== Sys2Proof/Machine/HostPort.lean ====
section
/-! DEFINITION. The block's interface (40_cycle_driver.md R108) and the host's interactions between steps (R112):
reset, load, keys_in, step with rand_in, and the outputs. -/

namespace Sys2Proof.Machine

/-- The `reset` port: every piece of the core's state takes its reset value, the loaded program with it
(70_reset_and_hazards.md R260). What is not the core's stays: the machine's DRAW_EDGE_POLICY, the inputs the host is
still to supply, and the draws already taken (logs 1, 2, 3). -/
def State.portReset (s : State) : State :=
  { State.reset with edgePolicy := s.edgePolicy, inputs := s.inputs, draws := s.draws }

/-- What the `load` port answers (40_cycle_driver.md R106). -/
inductive LoadAnswer where
  | ok
  | loadError
deriving DecidableEq, Repr

/-- The `load` port: the image is copied verbatim from 0x200, or, when it is longer than 3584 bytes, LOAD_ERROR is
answered and nothing is written (40_cycle_driver.md R106, 60_exceptions.md R244). -/
def State.portLoad (s : State) (image : List Byte) : LoadAnswer × State :=
  if image.length ≤ Config.loadMax then
    (.ok, { s.writeBytes Config.loadOffset image with phase := .loaded })
  else (.loadError, s)

/-- The `keys_in` port: the host writes KEY between steps (10_state.md R32). -/
def State.portKeys (s : State) (keys : Word) : State := { s with key := keys }

/-- The `step` port with a byte on `rand_in`: one step whose random byte is `r` (40_cycle_driver.md R104, R108). While
FAULT ≠ 0 it does nothing (R109). -/
def State.portStep (s : State) (r : Byte) : StepOutcome :=
  if s.fault = .noFault then step { s with inputs := ⟨s.key, r⟩ :: s.inputs } else .next s

/-- `fault_code` (40_cycle_driver.md R108). -/
def State.faultCodeOut (s : State) : BitVec 4 := s.fault.code

/-- `bitmap_out`: cell (x, y) at bit 64 y + x; listed from bit 0 (40_cycle_driver.md R108). -/
def State.bitmapOut (s : State) : List Bool :=
  (List.range (Config.columns * Config.rows)).map fun k => s.pixel (k % Config.columns) (k / Config.columns)

/-- What the host may do between steps (the table of 40_cycle_driver.md R112). -/
inductive HostAction where
  | reset
  | load (image : List Byte)
  | setKeys (keys : Word)
  | step (r : Byte)
  | readBitmap
  | readFault
deriving DecidableEq, Repr

/-- What the host gets back (the table of 40_cycle_driver.md R112). -/
inductive HostReply where
  | nothing
  | load (answer : LoadAnswer)
  | status (st : Status)
  | bitmap (cells : List Bool)
  | fault (code : BitVec 4) (info : Word)
deriving DecidableEq, Repr

/-- A step's outcome with the status the host gets back. -/
def withStatus : StepOutcome → Host.Outcome (State × HostReply) Fault Refusal
  | .next s => .next (s, .status s.status)
  | .fault r => .fault r
  | .refused r => .refused r

/-- One interaction (the table of 40_cycle_driver.md R112). A load out of the boot order is refused by name: the host
may not make it, and the spec gives it no effect (R106, 70_reset_and_hazards.md R261; log 9). -/
def hostAct (a : HostAction) (s : State) : Host.Outcome (State × HostReply) Fault Refusal :=
  match a with
  | .reset => .next (s.portReset, .nothing)
  | .load image =>
    if s.phase = .fresh then .next ((s.portLoad image).2, .load (s.portLoad image).1)
    else .refused .loadOutOfOrder
  | .setKeys keys => .next (s.portKeys keys, .nothing)
  | .step r => withStatus (s.portStep r)
  | .readBitmap => .next (s, .bitmap s.bitmapOut)
  | .readFault => .next (s, .fault s.faultCodeOut s.faultInfo)

end Sys2Proof.Machine
end

