-- ==== Sys2Proof/WellFormed.lean ====
section
/-! DEFINITION. Which terms of Instr are instructions. The types of the register and immediate fields already
bound them (every index 0..15, every NN and every NNN is legal: 10_state.md R20, 30_encoding.md R71, R78); the one
operand that needs a check is the row count of `draw`, which is a Nat. -/

namespace Sys2Proof

/-- `N is used as the row count 0..15 of draw` (30_encoding.md R72). -/
def rowCountFits (n : Nat) : Bool := n < 16

/-- Well-formed: the row count of `draw` fits its 4-bit field (30_encoding.md R72, R73). -/
def Instr.wellFormed : Instr → Bool
  | .clearScreen => true
  | .ret => true
  | .jump _ => true
  | .call _ => true
  | .skipEqImm _ _ => true
  | .skipNeImm _ _ => true
  | .skipEqReg _ _ => true
  | .setImm _ _ => true
  | .addImm _ _ => true
  | .setReg _ _ => true
  | .orReg _ _ => true
  | .andReg _ _ => true
  | .xorReg _ _ => true
  | .addReg _ _ => true
  | .subReg _ _ => true
  | .shr _ => true
  | .subn _ _ => true
  | .shl _ => true
  | .skipNeReg _ _ => true
  | .setI _ => true
  | .jumpOffset _ => true
  | .rand _ _ => true
  | .draw _ _ n => rowCountFits n
  | .skipKeyPressed _ => true
  | .skipKeyNotPressed _ => true
  | .loadDelay _ => true
  | .waitKey _ => true
  | .setDelay _ => true
  | .setSound _ => true
  | .addI _ => true
  | .fontAddr _ => true
  | .bcd _ => true
  | .storeRegs _ => true
  | .loadRegs _ => true

end Sys2Proof
end

