-- ==== Sys2Proof/Safety.lean ====
section
/-! DEFINITION. The vocabulary of the claims: the invariant of the machine, the tables of who writes what, and what a
completed step leaves, each written from the spec's words and not through the operations the meanings are built of. -/

namespace Sys2Proof.Machine

/-! ### What a step leaves -/

/-- The state with its register file given as a function of the index (10_state.md R20). -/
def State.withRegs (s : State) (f : RegIdx → Byte) : State := { s with v := Vector.ofFn fun k => f (BitVec.ofNat 4 k.val) }

/-- The state as a completed step leaves it: PC at next_pc, each timer one lower unless it is 0, status OK
(40_cycle_driver.md R100, R101, R103, R108). -/
def State.stepDone (s : State) (nextPc : Word) : State :=
  { s with
    pc := nextPc
    dt := if s.dt = 0x00 then 0x00 else s.dt - 0x01
    st := if s.st = 0x00 then 0x00 else s.st - 0x01
    status := .ok }

/-- The state as a faulting step leaves it: FAULT, FAULT_INFO and the status port, nothing else
(60_exceptions.md R231, 40_cycle_driver.md R108). -/
def State.stepFaulted (s : State) (code : FaultCode) (info : Word) : State :=
  { s with fault := code, faultInfo := info, status := .fault }

end Sys2Proof.Machine

namespace Sys2Proof

open Sys2Proof.Machine

/-! ### Who writes what (10_state.md) -/

/-- The general registers an instruction writes (the table of 10_state.md R23). -/
def Instr.writesReg : Instr → RegIdx → Bool
  | .setImm x _, r | .addImm x _, r | .setReg x _, r | .orReg x _, r | .andReg x _, r | .xorReg x _, r
  | .rand x _, r | .loadDelay x, r | .waitKey x, r => r = x
  | .addReg x _, r | .subReg x _, r | .shr x, r | .subn x _, r | .shl x, r => r = x || r = 0xF
  | .addI _, r | .draw _ _ _, r => r = 0xF
  | .loadRegs x, r => r.toNat ≤ x.toNat
  | .clearScreen, _ | .ret, _ | .jump _, _ | .call _, _ | .skipEqImm _ _, _ | .skipNeImm _ _, _
  | .skipEqReg _ _, _ | .skipNeReg _ _, _ | .setI _, _ | .jumpOffset _, _ | .skipKeyPressed _, _
  | .skipKeyNotPressed _, _ | .setDelay _, _ | .setSound _, _ | .fontAddr _, _ | .bcd _, _ | .storeRegs _, _ => false

/-- The instructions that write I (10_state.md R28). -/
def Instr.writesIndex : Instr → Bool
  | .setI _ | .addI _ | .fontAddr _ | .storeRegs _ | .loadRegs _ => true
  | .clearScreen | .ret | .jump _ | .call _ | .skipEqImm _ _ | .skipNeImm _ _ | .skipEqReg _ _ | .setImm _ _
  | .addImm _ _ | .setReg _ _ | .orReg _ _ | .andReg _ _ | .xorReg _ _ | .addReg _ _ | .subReg _ _ | .shr _
  | .subn _ _ | .shl _ | .skipNeReg _ _ | .jumpOffset _ | .rand _ _ | .draw _ _ _ | .skipKeyPressed _
  | .skipKeyNotPressed _ | .loadDelay _ | .waitKey _ | .setDelay _ | .setSound _ | .bcd _ => false

/-- The address is one an instruction stores to, executed in this state: `bcd` at I..I+2, `store-regs` at I..I+X, no
other instruction (20_memory.md R59). The base is the meanings' own `State.base`, the span their `regSpan`. -/
def Instr.storesTo (i : Instr) (s : State) (a : Nat) : Bool :=
  match i with
  | .bcd _ => decide (s.base ≤ a ∧ a < s.base + 3)
  | .storeRegs x => decide (s.base ≤ a ∧ a < s.base + regSpan x)
  | .clearScreen | .ret | .jump _ | .call _ | .skipEqImm _ _ | .skipNeImm _ _ | .skipEqReg _ _ | .setImm _ _
  | .addImm _ _ | .setReg _ _ | .orReg _ _ | .andReg _ _ | .xorReg _ _ | .addReg _ _ | .subReg _ _ | .shr _
  | .subn _ _ | .shl _ | .skipNeReg _ _ | .setI _ | .jumpOffset _ | .rand _ _ | .draw _ _ _ | .skipKeyPressed _
  | .skipKeyNotPressed _ | .loadDelay _ | .waitKey _ | .setDelay _ | .setSound _ | .addI _ | .fontAddr _
  | .loadRegs _ => false

/-- The instructions whose rule sets next_pc to something else than PC + 2 (40_cycle_driver.md R101; 41_control_flow.md
R121..R128, 45_timers_input.md R211, R212). -/
def Instr.setsPc : Instr → Bool
  | .ret | .jump _ | .call _ | .skipEqImm _ _ | .skipNeImm _ _ | .skipEqReg _ _ | .skipNeReg _ _ | .jumpOffset _
  | .skipKeyPressed _ | .skipKeyNotPressed _ => true
  | .clearScreen | .setImm _ _ | .addImm _ _ | .setReg _ _ | .orReg _ _ | .andReg _ _ | .xorReg _ _ | .addReg _ _
  | .subReg _ _ | .shr _ | .subn _ _ | .shl _ | .setI _ | .rand _ _ | .draw _ _ _ | .loadDelay _ | .waitKey _
  | .setDelay _ | .setSound _ | .addI _ | .fontAddr _ | .bcd _ | .storeRegs _ | .loadRegs _ => false

/-- The faults an instruction can raise (the table of 60_exceptions.md R230). -/
def Instr.canRaise : Instr → FaultCode → Bool
  | .call _, c => c = .stackOverflow
  | .ret, c => c = .stackUnderflow
  | .draw _ _ _, c => c = .memoryOutOfBounds || c = .drawOutOfBounds
  | .bcd _, c | .storeRegs _, c | .loadRegs _, c => c = .memoryOutOfBounds
  | .skipKeyPressed _, c | .skipKeyNotPressed _, c => c = .keyIndexOutOfRange
  | .clearScreen, _ | .jump _, _ | .skipEqImm _ _, _ | .skipNeImm _ _, _ | .skipEqReg _ _, _ | .setImm _ _, _
  | .addImm _ _, _ | .setReg _ _, _ | .orReg _ _, _ | .andReg _ _, _ | .xorReg _ _, _ | .addReg _ _, _
  | .subReg _ _, _ | .shr _, _ | .subn _ _, _ | .shl _, _ | .skipNeReg _ _, _ | .setI _, _ | .jumpOffset _, _
  | .rand _ _, _ | .loadDelay _, _ | .waitKey _, _ | .setDelay _, _ | .setSound _, _ | .addI _, _
  | .fontAddr _, _ => false

/-- The bits of an instruction's word that the decoder does not ignore (30_encoding.md R73, R75). -/
def Instr.careMask : Instr → Word
  | .skipEqReg _ _ | .skipNeReg _ _ => 0xFFF0
  | .shr _ | .shl _ => 0xFF0F
  | .clearScreen | .ret | .jump _ | .call _ | .skipEqImm _ _ | .skipNeImm _ _ | .setImm _ _ | .addImm _ _
  | .setReg _ _ | .orReg _ _ | .andReg _ _ | .xorReg _ _ | .addReg _ _ | .subReg _ _ | .subn _ _ | .setI _
  | .jumpOffset _ | .rand _ _ | .draw _ _ _ | .skipKeyPressed _ | .skipKeyNotPressed _ | .loadDelay _ | .waitKey _
  | .setDelay _ | .setSound _ | .addI _ | .fontAddr _ | .bcd _ | .storeRegs _ | .loadRegs _ => 0xFFFF

end Sys2Proof

namespace Sys2Proof.Machine

/-! ### The sprite, cell by cell (44_display.md R191, R193) -/

/-- Bit c of sprite row r, c = 0 the leftmost: bit 7 - c of mem[I + r] (44_display.md R191; UNVERIFIED, log 6). -/
def State.spriteBit (s : State) (r c : Nat) : Bool := (s.readByte (s.i.toNat + r)).getLsbD (7 - c)

/-- Where the edge policy puts a pixel: wrapped under `wrap`, nowhere outside the grid under the other two
(44_display.md R193). -/
def placePixel (policy : Config.EdgePolicy) (x y : Nat) : Option (Nat × Nat) :=
  match policy with
  | .wrap => some (x % 64, y % 32)
  | .fault | .clip => if x < 64 ∧ y < 32 then some (x, y) else none

/-- Some set pixel of the sprite of `draw VX, VY, N` lands on the cell (cx, cy). -/
def State.spriteHits (s : State) (x y : RegIdx) (n : Nat) (cx cy : Nat) : Bool :=
  (List.range n).any fun r => (List.range 8).any fun c =>
    s.spriteBit r c && placePixel s.edgePolicy ((s.reg x).toNat + c) ((s.reg y).toNat + r) == some (cx, cy)

/-- Some set pixel of the sprite of `draw VX, VY, N` lies outside the 64 x 32 grid. -/
def State.spriteOffGrid (s : State) (x y : RegIdx) (n : Nat) : Bool :=
  (List.range n).any fun r => (List.range 8).any fun c =>
    s.spriteBit r c && decide (64 ≤ (s.reg x).toNat + c ∨ 32 ≤ (s.reg y).toNat + r)

/-- Some set pixel of the sprite of `draw VX, VY, N` lands on a cell that is 1. -/
def State.spriteCollides (s : State) (x y : RegIdx) (n : Nat) : Bool :=
  (List.range 64).any fun cx => (List.range 32).any fun cy => s.spriteHits x y n cx cy && s.pixel cx cy

/-- How many bits of the sprite's N rows are set. -/
def State.spriteWeight (s : State) (n : Nat) : Nat :=
  ((List.range (8 * n)).filter fun k => s.spriteBit (k / 8) (k % 8)).length

/-- How many cells of the bitmap are set. -/
def State.cellsSet (s : State) : Nat :=
  ((List.range 2048).filter fun k => s.pixel (k % 64) (k / 64)).length

/-! ### The invariant -/

/-- What holds of every state the core reaches. -/
structure State.Inv (s : State) : Prop where
  /-- Memory keeps its canonical form: addresses rise, none is above 0xFFF (20_memory.md R50). -/
  memoryCanonical : Memory.wf s.mem = true
  /-- "The largest value PC can take is 0x10FE" (10_state.md R27). -/
  pcBounded : s.pc.toNat ≤ 0x10FE
  /-- "Every stacked address is the address of an executed `call`, hence ≤ 0xFFE" (10_state.md R27). -/
  stackBounded : ∀ k : Fin 16, (s.stack[k.val]).toNat ≤ 0xFFE
  /-- `status` is FAULT exactly while FAULT ≠ 0 (40_cycle_driver.md R108, R109). -/
  statusSaysFault : s.status = .fault ↔ s.fault ≠ .noFault
  /-- FAULT_INFO is 0 until a fault (10_state.md R33). -/
  noFaultNoInfo : s.fault = .noFault → s.faultInfo = 0
  /-- A fetch fault holds PC (60_exceptions.md R232), which is out of range (40_cycle_driver.md R102). -/
  fetchFaultInfo : s.fault = .fetchOutOfBounds → s.faultInfo = s.pc ∧ 0xFFE < s.pc.toNat
  /-- Any other fault holds the word at PC (60_exceptions.md R232), which can be fetched. -/
  wordFaultInfo : s.fault ≠ .noFault → s.fault ≠ .fetchOutOfBounds →
    s.faultInfo = wordOfBytes (s.readByte s.pc.toNat) (s.readByte (s.pc.toNat + 1)) ∧ s.pc.toNat ≤ 0xFFE
  /-- The latched word is the instruction that raises the latched fault, or no instruction for code 1
  (60_exceptions.md R230, R232). -/
  faultCause : s.fault ≠ .noFault → s.fault ≠ .fetchOutOfBounds →
    match decodeWord s.faultInfo with
    | none => s.fault = .unknownOpcode
    | some i => i.canRaise s.fault = true
  /-- No fault is latched before the first step (70_reset_and_hazards.md R260, R261). -/
  noFaultBeforeFirstStep : s.phase ≠ .running → s.fault = .noFault

end Sys2Proof.Machine
end

