-- ==== Sys2Proof/Certificates/Slice0/Obligations.lean ====
section
/-! DEFINITION. The statements, from the numbered rules of spec/. A completed step is written `stepDone` (PC, the two
timers, the status port), a register file `withRegs`, a latch `stepFaulted` (Sys2Proof/Safety.lean); each such equation
says the whole next state, so it is the frame as well. Where a rule carries the spec's own mark (a decision D<n>, a
derivation, general knowledge) the statement is `derived` and its docstring names the mark and the log entry. The model's
own fields `inputs`, `draws`, `phase`, `status`, `edgePolicy` are logs 1, 2, 3, 8 and 9. The opcode VALUES in the decode
clauses are the ones the instruction rules give; the spec supplies all of them but `jump`'s from general knowledge (D14;
UNVERIFIED, log 5). -/

open Sys2Proof Sys2Proof.Machine

/-! ### Encoding (30_encoding.md) -/

/-- 30_encoding.md sections 2 to 4: no bit of an encoding is dropped. (Opcode values: D14, log 5.) -/
def Obligations.EncodedInstructionDecodesToItself : Prop :=
  ∀ i : Instr, i.wellFormed = true → decodeWord (encode i) = some i

/-- 30_encoding.md R78 with R73, R75: every word that is an instruction is that instruction's encoding but for the
ignored bits (D13, D14; log 15). -/
def Obligations.DecodedWordIsItsEncodingButForIgnoredBits : Prop :=
  ∀ (w : Word) (i : Instr), decodeWord w = some i → i.wellFormed = true ∧ encode i = w &&& i.careMask

/-- 40_cycle_driver.md R110 over the table of 30_encoding.md R76: the two-level dispatch of R74 and the opcode map agree
on every word, and the map never selects two rows (D13, D14; log 5). -/
def Obligations.DispatchAgreesWithOpcodeMap : Prop :=
  ∀ w : Word, (opcodeMap.filter fun r => r.selects w).map (fun r => r.mnemonic) =
    (decodeWord w).toList.map Instr.mnemonic

/-- 30_encoding.md R77: which words are unknown (D13, D14; log 5). -/
def Obligations.UnknownWordsAreExactlyThoseOfTheTable : Prop :=
  ∀ w : Word, decodeWord w = none ↔
    (w.extractLsb' 12 4 = 0x0#4 ∧ w ≠ 0x00E0 ∧ w ≠ 0x00EE) ∨
    (w.extractLsb' 12 4 = 0x8#4 ∧ w.extractLsb' 0 4 ∈ [0x8#4, 0x9#4, 0xA#4, 0xB#4, 0xC#4, 0xD#4, 0xF#4]) ∨
    (w.extractLsb' 12 4 = 0xE#4 ∧ w.extractLsb' 0 8 ∉ [0x9E#8, 0xA1#8]) ∨
    (w.extractLsb' 12 4 = 0xF#4 ∧ w.extractLsb' 0 8 ∉
      [0x07#8, 0x0A#8, 0x15#8, 0x18#8, 0x1E#8, 0x29#8, 0x33#8, 0x55#8, 0x65#8])

/-- The words of the rules' own examples decode to the instructions they stand for (41_control_flow.md R122, R126, R128;
42_alu.md R141, R142, R150, R152; 43_index_memory.md R170, R174, R175; 45_timers_input.md R211, R212). -/
def Obligations.ExampleWordsOfTheRulesDecode : Prop :=
  decodeWord 0x120A = some (.jump 0x20A) ∧ decodeWord 0x5120 = some (.skipEqReg 0x1 0x2) ∧
  decodeWord 0xB300 = some (.jumpOffset 0x300) ∧ decodeWord 0x6AFF = some (.setImm 0xA 0xFF) ∧
  decodeWord 0x7220 = some (.addImm 0x2 0x20) ∧ decodeWord 0x8127 = some (.subn 0x1 0x2) ∧
  decodeWord 0xC00F = some (.rand 0x0 0x0F) ∧ decodeWord 0xA300 = some (.setI 0x300) ∧
  decodeWord 0xF155 = some (.storeRegs 0x1) ∧ decodeWord 0xF265 = some (.loadRegs 0x2) ∧
  decodeWord 0xE19E = some (.skipKeyPressed 0x1) ∧ decodeWord 0xE1A1 = some (.skipKeyNotPressed 0x1)

/-- 20_memory.md R53: the fetched word, big-endian, hi from PC and lo from PC + 1; w[15:8] = hi, w[7:0] = lo. -/
def Obligations.FetchedWordIsBigEndian : Prop :=
  ∀ s : State, s.fetchWord = s.readByte s.pc.toNat ++ s.readByte (s.pc.toNat + 1) ∧
    s.fetchWord.extractLsb' 8 8 = s.readByte s.pc.toNat ∧
    s.fetchWord.extractLsb' 0 8 = s.readByte (s.pc.toNat + 1)

/-! ### The step (40_cycle_driver.md) -/

/-- 40_cycle_driver.md R100: where the two bytes at PC decode, the step executes that instruction on the key vector the
host supplies with the step (R112) and commits what it answers. How the host's inputs reach the step, and how `inputs`,
`draws` and `phase` move on after it, is the model's choice: logs 3, 2 and 9. -/
def Obligations.StepRunsTheInstructionAtPc : Prop :=
  ∀ (s : State) (i : Instr), s.fault = .noFault → s.pc.toNat ≤ 0xFFE →
    decodeWord (s.readByte s.pc.toNat ++ s.readByte (s.pc.toNat + 1)) = some i →
    ∃ t, exec i { s with key := (s.inputs.head?.map StepInput.keys).getD s.key } = .next t ∧
      step s = .next { t with inputs := s.inputs.tail, draws := s.draws + 1, phase := .running }

/-- 40_cycle_driver.md R102 (D4), 30_encoding.md R77 (D13, D14), 60_exceptions.md R232 (D29): PC > 0xFFE latches
FETCH_OUT_OF_BOUNDS with PC, an unknown word UNKNOWN_OPCODE with the word; PC stays, and so does every other piece of the
core's state but KEY, which the host supplies with the step. How it does so (`inputs`, used up by the step) is log 3, the
advance of `draws` log 2, that of `phase` log 9: the model's choices. 0xFFE is the last fetchable address: there the second
clause, or `StepRunsTheInstructionAtPc`, applies. -/
def Obligations.FetchAndDecodeFaultsLatch : Prop :=
  ∀ s : State, s.fault = .noFault →
    (0xFFE < s.pc.toNat → step s = .next { (s.stepFaulted .fetchOutOfBounds s.pc) with
      key := (s.inputs.head?.map StepInput.keys).getD s.key
      inputs := s.inputs.tail, draws := s.draws + 1, phase := .running }) ∧
    (s.pc.toNat ≤ 0xFFE → decodeWord (s.readByte s.pc.toNat ++ s.readByte (s.pc.toNat + 1)) = none →
      step s = .next { (s.stepFaulted .unknownOpcode (s.readByte s.pc.toNat ++ s.readByte (s.pc.toNat + 1))) with
        key := (s.inputs.head?.map StepInput.keys).getD s.key
        inputs := s.inputs.tail, draws := s.draws + 1, phase := .running })

/-- 40_cycle_driver.md R109 and 60_exceptions.md R233 (D1): while FAULT ≠ 0 a step does nothing, and so does every run of
steps. The next-state form of "does nothing" is log 7. -/
def Obligations.FaultedCoreStaysAsItIs : Prop :=
  ∀ s : State, s.fault ≠ .noFault → step s = .next s ∧ ∀ k : Nat, Host.Core.run Sys2Proof.core k s = .next s

/-- 40_cycle_driver.md R100 and R109: from every state a step has a next state; nothing makes the model stop. For FAULT ≠ 0,
where R100 says that no step exists and R109 that `step` does nothing, the next state is the model's reading, log 7
(DEDUCED); so is the next-state form of a step that faults. -/
def Obligations.EveryStepAnswersNext : Prop := ∀ s : State, ∃ t, step s = .next t

/-- 00_scope.md R12 and 60_exceptions.md R231, R232, R230 (D1): every instruction, in every state, ends in exactly one of
complete (status OK, the latch untouched), stall (nothing but the status port) or fault (nothing but the latch and the
status port, with a code the instruction can raise and its own word). -/
def Obligations.EveryInstructionEndsInOneOfThreeWays : Prop :=
  ∀ (i : Instr) (s : State), ∃ t, exec i s = .next t ∧
    ((t.status = .ok ∧ t.fault = s.fault ∧ t.faultInfo = s.faultInfo) ∨
     t = { s with status := .stalled } ∨
     ∃ c, i.canRaise c = true ∧ t = s.stepFaulted c (encode i))

/-- 60_exceptions.md R231, R232, R234 (D1, D27, D29): a step that latches a fault leaves PC and memory, and FAULT_INFO is
PC for the fetch fault and the fetched word for every other. -/
def Obligations.LatchIdentifiesTheCause : Prop :=
  ∀ s t : State, s.fault = .noFault → step s = .next t → t.fault ≠ .noFault →
    t.pc = s.pc ∧ t.mem = s.mem ∧ t.v = s.v ∧ t.i = s.i ∧ t.sp = s.sp ∧ t.stack = s.stack ∧ t.dt = s.dt ∧
    t.st = s.st ∧ t.bm = s.bm ∧
    (t.fault = .fetchOutOfBounds ↔ 0xFFE < s.pc.toNat) ∧
    (t.fault = .fetchOutOfBounds → t.faultInfo = s.pc) ∧
    (t.fault ≠ .fetchOutOfBounds → t.faultInfo = s.readByte s.pc.toNat ++ s.readByte (s.pc.toNat + 1))

/-- 40_cycle_driver.md R103 (D1): a completed instruction decays both timers once, from the values it left; a stalled or
faulting one does not. -/
def Obligations.TimersDecayOncePerCompletedInstruction : Prop :=
  ∀ (i : Instr) (s t : State), exec i s = .next t →
    (t.status = .ok →
      (∀ x, i = .setDelay x → t.dt = if s.reg x = 0 then 0 else s.reg x - 1) ∧
      ((∀ x, i ≠ .setDelay x) → t.dt = if s.dt = 0 then 0 else s.dt - 1) ∧
      (∀ x, i = .setSound x → t.st = if s.reg x = 0 then 0 else s.reg x - 1) ∧
      ((∀ x, i ≠ .setSound x) → t.st = if s.st = 0 then 0 else s.st - 1)) ∧
    (t.status ≠ .ok → t.dt = s.dt ∧ t.st = s.st)

/-- 40_cycle_driver.md R101 with the rules that set next_pc to something else: 41_control_flow.md R121 to R128, and
45_timers_input.md R211 and R212 for the two key skips. next_pc is PC + 2 for every other instruction; a stalled or faulting
instruction does not write PC, and neither does a stalled or faulting step. The step of a faulted core, which the second
clause covers too, is log 7 (DEDUCED). -/
def Obligations.PcMovesByTwoUnlessTheRuleSaysOtherwise : Prop :=
  (∀ (i : Instr) (s t : State), exec i s = .next t →
    (t.status = .ok → i.setsPc = false → t.pc = s.pc + 2) ∧ (t.status ≠ .ok → t.pc = s.pc)) ∧
  (∀ s t : State, step s = .next t → t.status ≠ .ok → t.pc = s.pc)

/-- 40_cycle_driver.md R105: `wait-key` with no key pressed stalls and leaves everything but the status port (log 8); it is
the only instruction that can stall; after the stalled step the next one fetches the same word. After that step KEY is what
the host supplied with it (`inputs`, used up by the step: log 3), `draws` has advanced (log 2), and so has `phase` (log 9):
the model's choices. -/
def Obligations.OnlyWaitKeyWithNoKeyStalls : Prop :=
  (∀ (x : RegIdx) (s : State), s.key = 0 → exec (.waitKey x) s = .next { s with status := .stalled }) ∧
  (∀ (i : Instr) (s t : State), exec i s = .next t → t.status = .stalled → (∃ x, i = .waitKey x) ∧ s.key = 0) ∧
  (∀ s t : State, s.fault = .noFault → step s = .next t → t.status = .stalled →
    t.fetchWord = s.fetchWord ∧ t = { s with
      status := .stalled, key := (s.inputs.head?.map StepInput.keys).getD s.key
      inputs := s.inputs.tail, draws := s.draws + 1, phase := .running })

/-- 40_cycle_driver.md R104 (D16): an instruction that is not `rand` ignores the random byte, and whatever else the host
has yet to supply. -/
def Obligations.OnlyRandReadsTheRandomByte : Prop :=
  ∀ (i : Instr) (s : State) (inputs : List StepInput) (draws : Nat), (∀ x nn, i ≠ .rand x nn) →
    ∀ t, exec i s = .next t →
      exec i { s with inputs := inputs, draws := draws } = .next { t with inputs := inputs, draws := draws }

/-! ### Who writes what (10_state.md) -/

/-- The table of 10_state.md R23: no other general register changes. -/
def Obligations.OnlyTheTableWritesRegisters : Prop :=
  ∀ (i : Instr) (s t : State) (r : RegIdx), exec i s = .next t → i.writesReg r = false → t.reg r = s.reg r

/-- 20_memory.md R50, R59: every byte but those an instruction stores to reads as before; only `bcd` (at I..I+2) and
`store-regs` (at I..I+X) store. -/
def Obligations.OnlyTheStoredBytesChange : Prop :=
  ∀ (i : Instr) (s t : State) (a : Nat), exec i s = .next t → i.storesTo s a = false → t.readByte a = s.readByte a

/-- 10_state.md R29: only `call` and `return` move SP; only `call` writes an entry, the one at SP. -/
def Obligations.OnlyCallAndReturnMoveTheStack : Prop :=
  ∀ (i : Instr) (s t : State), exec i s = .next t →
    ((∀ nnn, i ≠ .call nnn) → i ≠ .ret → t.sp = s.sp) ∧
    ((∀ nnn, i ≠ .call nnn) → t.stack = s.stack) ∧
    (∀ k : Fin 16, k.val ≠ s.sp.val → t.stack[k.val] = s.stack[k.val])

/-- 10_state.md R28, R31 and 60_exceptions.md R240: I is written by the five instructions R28 names and no other, BM by
`clear-screen` and `draw` and no other. -/
def Obligations.OnlyTheNamedInstructionsWriteIAndTheBitmap : Prop :=
  ∀ (i : Instr) (s t : State), exec i s = .next t →
    (i.writesIndex = false → t.i = s.i) ∧ (i ≠ .clearScreen → (∀ x y n, i ≠ .draw x y n) → t.bm = s.bm)

/-- 10_state.md R32 (KEY is "read-only from the core's perspective"): no instruction writes KEY, nor the machine's
parameter, nor what the host has yet to supply, nor the boot order (logs 1, 2, 3, 9). -/
def Obligations.NoInstructionWritesTheHostsSide : Prop :=
  ∀ (i : Instr) (s t : State), exec i s = .next t →
    t.key = s.key ∧ t.edgePolicy = s.edgePolicy ∧ t.inputs = s.inputs ∧ t.draws = s.draws ∧ t.phase = s.phase

/-! ### Control flow (41_control_flow.md) -/

/-- 41_control_flow.md R121, whole: an empty stack latches STACK_UNDERFLOW with the word and changes nothing else; the
popped entry stays, and an entry of at most 0xFFE gives a PC of at most 0x1000. -/
def Obligations.ReturnPopsAndGoesPastTheCall : Prop :=
  decodeWord 0x00EE = some .ret ∧
  ∀ s : State,
    (s.sp = 0 → exec .ret s = .next (s.stepFaulted .stackUnderflow 0x00EE)) ∧
    (∀ k : Fin 16, s.sp.val = k.val + 1 →
      exec .ret s = .next ({ s with sp := k.castSucc }.stepDone (s.stack[k.val] + 2)) ∧
        ((s.stack[k.val]).toNat ≤ 0xFFE → (s.stack[k.val] + 2).toNat ≤ 0x1000))

/-- 41_control_flow.md R122, whole. -/
def Obligations.JumpGoesToItsAddress : Prop :=
  ∀ (nnn : Imm12) (s : State), decodeWord (0x1#4 ++ nnn) = some (.jump nnn) ∧
    exec (.jump nnn) s = .next (s.stepDone (nnn.setWidth 16))

/-- 41_control_flow.md R123, whole: it pushes its own address; a full stack latches STACK_OVERFLOW with the word and
changes nothing else. -/
def Obligations.CallPushesItsOwnAddress : Prop :=
  ∀ (nnn : Imm12) (s : State), decodeWord (0x2#4 ++ nnn) = some (.call nnn) ∧
    (s.sp = 16 → exec (.call nnn) s = .next (s.stepFaulted .stackOverflow (0x2#4 ++ nnn))) ∧
    (∀ k : Fin 16, s.sp.val = k.val →
      exec (.call nnn) s =
        .next ({ s with stack := s.stack.set k.val s.pc, sp := k.succ }.stepDone (nnn.setWidth 16)))

/-- 41_control_flow.md R124 and R125, whole. -/
def Obligations.SkipsOnImmediate : Prop :=
  ∀ (x : RegIdx) (nn : Byte) (s : State),
    decodeWord (0x3#4 ++ x ++ nn) = some (.skipEqImm x nn) ∧
    exec (.skipEqImm x nn) s = .next (s.stepDone (if s.reg x = nn then s.pc + 4 else s.pc + 2)) ∧
    decodeWord (0x4#4 ++ x ++ nn) = some (.skipNeImm x nn) ∧
    exec (.skipNeImm x nn) s = .next (s.stepDone (if s.reg x ≠ nn then s.pc + 4 else s.pc + 2))

/-- 41_control_flow.md R126 and R127, whole: every low nibble. -/
def Obligations.SkipsOnRegisters : Prop :=
  ∀ (x y : RegIdx) (n : Nibble) (s : State),
    decodeWord (0x5#4 ++ x ++ y ++ n) = some (.skipEqReg x y) ∧
    exec (.skipEqReg x y) s = .next (s.stepDone (if s.reg x = s.reg y then s.pc + 4 else s.pc + 2)) ∧
    decodeWord (0x9#4 ++ x ++ y ++ n) = some (.skipNeReg x y) ∧
    exec (.skipNeReg x y) s = .next (s.stepDone (if s.reg x ≠ s.reg y then s.pc + 4 else s.pc + 2))

/-- 41_control_flow.md R128 (D11): V[0] is added, whatever bits 11..8 hold, and the sum is not masked. -/
def Obligations.JumpOffsetAddsV0Unmasked : Prop :=
  ∀ (nnn : Imm12) (s : State), decodeWord (0xB#4 ++ nnn) = some (.jumpOffset nnn) ∧
    exec (.jumpOffset nnn) s = .next (s.stepDone (BitVec.ofNat 16 (nnn.toNat + (s.reg 0x0).toNat)))

/-- 41_control_flow.md R129 (derived in the spec): the `return` that finds the entry of a `call` goes to the instruction
after it, with SP as before the call. -/
def Obligations.ReturnUndoesCall : Prop :=
  ∀ (nnn : Imm12) (s : State) (k : Fin 16), s.sp.val = k.val →
    ∃ t, exec (.call nnn) s = .next t ∧ t.pc = nnn.setWidth 16 ∧
      ∀ u : State, u.sp = t.sp → u.stack[k.val] = t.stack[k.val] →
        ∃ v, exec .ret u = .next v ∧ v.status = .ok ∧ v.pc = s.pc + 2 ∧ v.sp = s.sp

/-! ### Register and ALU instructions (42_alu.md) -/

/-- 42_alu.md R141 and R142, whole: no flag is written. -/
def Obligations.ImmediateWritesTouchNoFlag : Prop :=
  ∀ (x : RegIdx) (nn : Byte) (s : State),
    decodeWord (0x6#4 ++ x ++ nn) = some (.setImm x nn) ∧
    exec (.setImm x nn) s = .next ((s.withRegs fun r => if r = x then nn else s.reg r).stepDone (s.pc + 2)) ∧
    decodeWord (0x7#4 ++ x ++ nn) = some (.addImm x nn) ∧
    exec (.addImm x nn) s =
      .next ((s.withRegs fun r => if r = x then BitVec.ofNat 8 (((s.reg x).toNat + nn.toNat) % 256) else s.reg r).stepDone
        (s.pc + 2))

/-- 42_alu.md R143, R144, R145 and R146, whole: no flag is written. -/
def Obligations.LogicResultsTouchNoFlag : Prop :=
  ∀ (x y : RegIdx) (s : State),
    decodeWord (0x8#4 ++ x ++ y ++ 0x0#4) = some (.setReg x y) ∧
    exec (.setReg x y) s = .next ((s.withRegs fun r => if r = x then s.reg y else s.reg r).stepDone (s.pc + 2)) ∧
    decodeWord (0x8#4 ++ x ++ y ++ 0x1#4) = some (.orReg x y) ∧
    exec (.orReg x y) s =
      .next ((s.withRegs fun r => if r = x then s.reg x ||| s.reg y else s.reg r).stepDone (s.pc + 2)) ∧
    decodeWord (0x8#4 ++ x ++ y ++ 0x2#4) = some (.andReg x y) ∧
    exec (.andReg x y) s =
      .next ((s.withRegs fun r => if r = x then s.reg x &&& s.reg y else s.reg r).stepDone (s.pc + 2)) ∧
    decodeWord (0x8#4 ++ x ++ y ++ 0x3#4) = some (.xorReg x y) ∧
    exec (.xorReg x y) s =
      .next ((s.withRegs fun r => if r = x then s.reg x ^^^ s.reg y else s.reg r).stepDone (s.pc + 2))

/-- 42_alu.md R147 with R140 (D8, log 10): `f` is the register file after VF is written with the carry; the sum is formed
from `f`, so X = 0xF and Y = 0xF are covered as the rule's corner cases say. -/
def Obligations.AddRegWritesCarryThenSum : Prop :=
  ∀ (x y : RegIdx) (s : State),
    let f : RegIdx → Byte := fun r =>
      if r = 0xF then (if (s.reg x).toNat + (s.reg y).toNat > 255 then 1 else 0) else s.reg r
    decodeWord (0x8#4 ++ x ++ y ++ 0x4#4) = some (.addReg x y) ∧
    exec (.addReg x y) s =
      .next ((s.withRegs fun r => if r = x then BitVec.ofNat 8 (((f x).toNat + (f y).toNat) % 256) else f r).stepDone
        (s.pc + 2))

/-- 42_alu.md R148 and R150 with R140 (D8, log 10): VF is 0 for a borrow, else 1, then the difference from the file after
that write; `subn` has the operands exchanged. -/
def Obligations.SubtractionsWriteNoBorrowThenDifference : Prop :=
  ∀ (x y : RegIdx) (s : State),
    let f : RegIdx → Byte := fun r =>
      if r = 0xF then (if (s.reg y).toNat > (s.reg x).toNat then 0 else 1) else s.reg r
    let g : RegIdx → Byte := fun r =>
      if r = 0xF then (if (s.reg x).toNat > (s.reg y).toNat then 0 else 1) else s.reg r
    decodeWord (0x8#4 ++ x ++ y ++ 0x5#4) = some (.subReg x y) ∧
    exec (.subReg x y) s =
      .next ((s.withRegs fun r =>
        if r = x then BitVec.ofNat 8 (((f x).toNat + 256 - (f y).toNat) % 256) else f r).stepDone (s.pc + 2)) ∧
    decodeWord (0x8#4 ++ x ++ y ++ 0x7#4) = some (.subn x y) ∧
    exec (.subn x y) s =
      .next ((s.withRegs fun r =>
        if r = x then BitVec.ofNat 8 (((g y).toNat + 256 - (g x).toNat) % 256) else g r).stepDone (s.pc + 2))

/-- 42_alu.md R149 and R151 with R140 (D8, D13; logs 10, 15): one bit of V[X], logical; VF the bit shifted out, first; Y
is not read. -/
def Obligations.ShiftsWriteTheBitOutThenTheResult : Prop :=
  ∀ (x y : RegIdx) (s : State),
    let f : RegIdx → Byte := fun r => if r = 0xF then BitVec.ofNat 8 ((s.reg x).toNat % 2) else s.reg r
    let g : RegIdx → Byte := fun r => if r = 0xF then BitVec.ofNat 8 ((s.reg x).toNat / 128) else s.reg r
    decodeWord (0x8#4 ++ x ++ y ++ 0x6#4) = some (.shr x) ∧
    exec (.shr x) s =
      .next ((s.withRegs fun r => if r = x then BitVec.ofNat 8 ((f x).toNat / 2) else f r).stepDone (s.pc + 2)) ∧
    decodeWord (0x8#4 ++ x ++ y ++ 0xE#4) = some (.shl x) ∧
    exec (.shl x) s =
      .next ((s.withRegs fun r => if r = x then BitVec.ofNat 8 ((g x).toNat * 2 % 256) else g r).stepDone (s.pc + 2))

/-- 42_alu.md R152 and 40_cycle_driver.md R104 (D16, log 2): for EVERY byte r the host supplies with the step, V[X] is
r AND NN; where it supplies none, r is a free draw; and whatever r is, every bit that is 0 in NN is 0 in the result. -/
def Obligations.RandMasksTheStepsByte : Prop :=
  ∀ (x : RegIdx) (nn : Byte) (s : State),
    decodeWord (0xC#4 ++ x ++ nn) = some (.rand x nn) ∧
    (∀ (keys : Word) (r : Byte) (later : List StepInput), s.inputs = ⟨keys, r⟩ :: later →
      exec (.rand x nn) s =
        .next ((s.withRegs fun q => if q = x then r &&& nn else s.reg q).stepDone (s.pc + 2))) ∧
    (s.inputs = [] → exec (.rand x nn) s =
      .next ((s.withRegs fun q => if q = x then Config.randSource s.draws &&& nn else s.reg q).stepDone (s.pc + 2))) ∧
    (∃ t, exec (.rand x nn) s = .next t ∧ t.reg x &&& ~~~nn = 0)

/-! ### Index register and memory (43_index_memory.md) -/

/-- 43_index_memory.md R170, whole. -/
def Obligations.SetIWritesItsAddress : Prop :=
  ∀ (nnn : Imm12) (s : State), decodeWord (0xA#4 ++ nnn) = some (.setI nnn) ∧
    exec (.setI nnn) s = .next ({ s with i := nnn.setWidth 16 }.stepDone (s.pc + 2))

/-- 43_index_memory.md R171 with 00_scope.md R11 (D8, D9; logs 10, 11): VF from the 16-bit sum, then I from V[X] after
that write. -/
def Obligations.AddIWritesFlagThenSum : Prop :=
  ∀ (x : RegIdx) (s : State),
    let f : RegIdx → Byte := fun r =>
      if r = 0xF then (if (s.i.toNat + (s.reg x).toNat) % 65536 > 0xFFF then 1 else 0) else s.reg r
    decodeWord (0xF#4 ++ x ++ 0x1E#8) = some (.addI x) ∧
    exec (.addI x) s =
      .next ({ s.withRegs f with i := BitVec.ofNat 16 ((s.i.toNat + (f x).toNat) % 65536) }.stepDone (s.pc + 2))

/-- 43_index_memory.md R172 (D10, log 12): V[X] × 5, not masked. -/
def Obligations.FontAddrIsFiveTimesTheRegister : Prop :=
  ∀ (x : RegIdx) (s : State), decodeWord (0xF#4 ++ x ++ 0x29#8) = some (.fontAddr x) ∧
    exec (.fontAddr x) s = .next ({ s with i := BitVec.ofNat 16 ((s.reg x).toNat * 5) }.stepDone (s.pc + 2))

/-- 43_index_memory.md R173 (D3, log 16): the three digits at I..I+2, every other byte as before and everything else too;
a range that leaves memory latches MEMORY_OUT_OF_BOUNDS and writes nothing. -/
def Obligations.BcdStoresThreeDigits : Prop :=
  ∀ (x : RegIdx) (s : State), decodeWord (0xF#4 ++ x ++ 0x33#8) = some (.bcd x) ∧
    (0xFFF < s.i.toNat + 2 → exec (.bcd x) s = .next (s.stepFaulted .memoryOutOfBounds (0xF#4 ++ x ++ 0x33#8))) ∧
    (s.i.toNat + 2 ≤ 0xFFF → ∃ t, exec (.bcd x) s = .next t ∧
      t = { (s.stepDone (s.pc + 2)) with mem := t.mem } ∧
      t.readByte s.i.toNat = BitVec.ofNat 8 ((s.reg x).toNat / 100) ∧
      t.readByte (s.i.toNat + 1) = BitVec.ofNat 8 ((s.reg x).toNat / 10 % 10) ∧
      t.readByte (s.i.toNat + 2) = BitVec.ofNat 8 ((s.reg x).toNat % 10) ∧
      ∀ a : Nat, (a < s.i.toNat ∨ s.i.toNat + 2 < a) → t.readByte a = s.readByte a)

/-- 43_index_memory.md R174 (D3, log 16): V0..VX at I..I+X, I advanced by X + 1, every other byte as before and everything
else too; a range that leaves memory latches MEMORY_OUT_OF_BOUNDS and writes nothing. -/
def Obligations.StoreRegsStoresTheFirstRegisters : Prop :=
  ∀ (x : RegIdx) (s : State), decodeWord (0xF#4 ++ x ++ 0x55#8) = some (.storeRegs x) ∧
    (0xFFF < s.i.toNat + x.toNat →
      exec (.storeRegs x) s = .next (s.stepFaulted .memoryOutOfBounds (0xF#4 ++ x ++ 0x55#8))) ∧
    (s.i.toNat + x.toNat ≤ 0xFFF → ∃ t, exec (.storeRegs x) s = .next t ∧
      t = { (s.stepDone (s.pc + 2)) with mem := t.mem, i := BitVec.ofNat 16 (s.i.toNat + x.toNat + 1) } ∧
      (∀ r : RegIdx, r.toNat ≤ x.toNat → t.readByte (s.i.toNat + r.toNat) = s.reg r) ∧
      ∀ a : Nat, (a < s.i.toNat ∨ s.i.toNat + x.toNat < a) → t.readByte a = s.readByte a)

/-- 43_index_memory.md R175 (D3, log 16): V0..VX from I..I+X, I advanced by X + 1, nothing else; a range that leaves memory
latches MEMORY_OUT_OF_BOUNDS and writes nothing. -/
def Obligations.LoadRegsLoadsTheFirstRegisters : Prop :=
  ∀ (x : RegIdx) (s : State), decodeWord (0xF#4 ++ x ++ 0x65#8) = some (.loadRegs x) ∧
    (0xFFF < s.i.toNat + x.toNat →
      exec (.loadRegs x) s = .next (s.stepFaulted .memoryOutOfBounds (0xF#4 ++ x ++ 0x65#8))) ∧
    (s.i.toNat + x.toNat ≤ 0xFFF →
      exec (.loadRegs x) s = .next ({ (s.withRegs fun r =>
          if r.toNat ≤ x.toNat then s.readByte (s.i.toNat + r.toNat) else s.reg r) with
        i := BitVec.ofNat 16 (s.i.toNat + x.toNat + 1) }.stepDone (s.pc + 2)))

/-! ### The bitmap (44_display.md) -/

/-- 44_display.md R190, whole. -/
def Obligations.ClearScreenClearsEveryCell : Prop :=
  decodeWord 0x00E0 = some .clearScreen ∧
  ∀ s : State, ∃ t, exec .clearScreen s = .next t ∧ t = { (s.stepDone (s.pc + 2)) with bm := t.bm } ∧
    ∀ cx cy : Nat, t.pixel cx cy = false

/-- 44_display.md R191, R192, R193 (D6, D7, D24, K5; logs 1, 6, 13, 14), under each edge policy: where the sprite's bytes
lie in memory, and under `fault` its set pixels in the grid, every cell is inverted exactly where the sprite hits it, VF
says whether a hit cell was 1, and nothing else changes. -/
def Obligations.DrawInvertsExactlyTheSpritesCells : Prop :=
  ∀ (x y : RegIdx) (n : Nibble) (s : State),
    decodeWord (0xD#4 ++ x ++ y ++ n) = some (.draw x y n.toNat) ∧
    ((n = 0 ∨ s.i.toNat + n.toNat - 1 ≤ 0xFFF) → (s.edgePolicy = .fault → s.spriteOffGrid x y n.toNat = false) →
      ∃ t, exec (.draw x y n.toNat) s = .next t ∧
        (∀ cx cy : Nat, cx < 64 → cy < 32 →
          t.pixel cx cy = (s.pixel cx cy ^^ s.spriteHits x y n.toNat cx cy)) ∧
        t.reg 0xF = (if s.spriteCollides x y n.toNat = true then 1 else 0) ∧
        t = { ((s.withRegs fun r => if r = 0xF then t.reg 0xF else s.reg r).stepDone (s.pc + 2)) with bm := t.bm })

/-- 44_display.md R191, R193 and 60_exceptions.md R234 (D3, D6, D27): the memory check first, then the edge check under
`fault`; either latch changes nothing else. -/
def Obligations.DrawLatchesMemoryBeforeEdge : Prop :=
  ∀ (x y : RegIdx) (n : Nibble) (s : State),
    (n ≠ 0 → 0xFFF < s.i.toNat + n.toNat - 1 →
      exec (.draw x y n.toNat) s = .next (s.stepFaulted .memoryOutOfBounds (0xD#4 ++ x ++ y ++ n))) ∧
    ((n = 0 ∨ s.i.toNat + n.toNat - 1 ≤ 0xFFF) → s.edgePolicy = .fault → s.spriteOffGrid x y n.toNat = true →
      exec (.draw x y n.toNat) s = .next (s.stepFaulted .drawOutOfBounds (0xD#4 ++ x ++ y ++ n)))

/-- 44_display.md R194 with R191 (derived in the spec): the second of two equal draws restores the bitmap. Its VF, by
R191, is 1 exactly when a cell the sprite hits was 0 before the first draw (so that the first one set it), else 0; where the
hit cells were all clear this is R194's "if and only if the sprite has at least one set pixel in the grid". R194's reason
("every cell the second draw touches was set to 1 by the first") does not hold of a cell that was 1 before: log 18. -/
def Obligations.DrawingTwiceRestoresTheBitmap : Prop :=
  ∀ (x y : RegIdx) (n : Nibble) (s t u : State),
    exec (.draw x y n.toNat) s = .next t → t.status = .ok →
    u.reg x = s.reg x → u.reg y = s.reg y → u.i = s.i → u.mem = s.mem → u.edgePolicy = s.edgePolicy → u.bm = t.bm →
    ∃ v, exec (.draw x y n.toNat) u = .next v ∧ v.status = .ok ∧ v.bm = s.bm ∧
      (v.reg 0xF = 0 ∨ v.reg 0xF = 1) ∧
      (v.reg 0xF = 1 ↔ ∃ cx cy : Nat, cx < 64 ∧ cy < 32 ∧ s.spriteHits x y n.toNat cx cy = true ∧
        s.pixel cx cy = false) ∧
      ((∀ cx cy : Nat, s.spriteHits x y n.toNat cx cy = true → s.pixel cx cy = false) →
        (v.reg 0xF = 1 ↔ ∃ cx cy : Nat, cx < 64 ∧ cy < 32 ∧ s.spriteHits x y n.toNat cx cy = true))

/-- 44_display.md R195 (derived in the spec): on a clear bitmap a sprite whose k set pixels all lie in the grid sets
exactly k cells and VF = 0. -/
def Obligations.DrawOnClearBitmapSetsAsManyCellsAsBits : Prop :=
  ∀ (x y : RegIdx) (n : Nibble) (s : State),
    (∀ cx cy : Nat, s.pixel cx cy = false) → (n = 0 ∨ s.i.toNat + n.toNat - 1 ≤ 0xFFF) →
    s.spriteOffGrid x y n.toNat = false →
    ∃ t, exec (.draw x y n.toNat) s = .next t ∧ t.status = .ok ∧ t.cellsSet = s.spriteWeight n.toNat ∧ t.reg 0xF = 0

/-! ### Timers and input (45_timers_input.md) -/

/-- 45_timers_input.md R210, R211 and R212 (D5): the level of KEY[V[X]]; V[X] > 0xF latches KEY_INDEX_OUT_OF_RANGE and
changes nothing else. -/
def Obligations.KeySkipsReadTheLevel : Prop :=
  ∀ (x : RegIdx) (s : State),
    decodeWord (0xE#4 ++ x ++ 0x9E#8) = some (.skipKeyPressed x) ∧
    decodeWord (0xE#4 ++ x ++ 0xA1#8) = some (.skipKeyNotPressed x) ∧
    (0xF < (s.reg x).toNat →
      exec (.skipKeyPressed x) s = .next (s.stepFaulted .keyIndexOutOfRange (0xE#4 ++ x ++ 0x9E#8)) ∧
      exec (.skipKeyNotPressed x) s = .next (s.stepFaulted .keyIndexOutOfRange (0xE#4 ++ x ++ 0xA1#8))) ∧
    ((s.reg x).toNat ≤ 0xF →
      exec (.skipKeyPressed x) s =
        .next (s.stepDone (if s.key.getLsbD (s.reg x).toNat = true then s.pc + 4 else s.pc + 2)) ∧
      exec (.skipKeyNotPressed x) s =
        .next (s.stepDone (if s.key.getLsbD (s.reg x).toNat = false then s.pc + 4 else s.pc + 2)))

/-- 45_timers_input.md R213, whole: DT before this step's decay. -/
def Obligations.LoadDelayReadsBeforeTheDecay : Prop :=
  ∀ (x : RegIdx) (s : State), decodeWord (0xF#4 ++ x ++ 0x07#8) = some (.loadDelay x) ∧
    exec (.loadDelay x) s = .next ((s.withRegs fun r => if r = x then s.dt else s.reg r).stepDone (s.pc + 2))

/-- 45_timers_input.md R214, whole: the least pressed key, or the stall (the status port is log 8). -/
def Obligations.WaitKeyTakesTheLeastKey : Prop :=
  ∀ (x : RegIdx) (s : State), decodeWord (0xF#4 ++ x ++ 0x0A#8) = some (.waitKey x) ∧
    (∀ k : Fin 16, s.key.getLsbD k.val = true → (∀ j : Fin 16, j < k → s.key.getLsbD j.val = false) →
      exec (.waitKey x) s =
        .next ((s.withRegs fun r => if r = x then BitVec.ofNat 8 k.val else s.reg r).stepDone (s.pc + 2))) ∧
    ((∀ k : Fin 16, s.key.getLsbD k.val = false) → exec (.waitKey x) s = .next { s with status := .stalled })

/-- 45_timers_input.md R215, whole: DT is V[X] - 1 when V[X] ≥ 1, else 0. -/
def Obligations.SetDelayIsDecayedAtOnce : Prop :=
  ∀ (x : RegIdx) (s : State), decodeWord (0xF#4 ++ x ++ 0x15#8) = some (.setDelay x) ∧
    exec (.setDelay x) s =
      .next { (s.stepDone (s.pc + 2)) with dt := BitVec.ofNat 8 ((s.reg x).toNat - 1) }

/-- 45_timers_input.md R216 (D20): as `set-delay`, for ST; nothing is output. -/
def Obligations.SetSoundIsDecayedAtOnce : Prop :=
  ∀ (x : RegIdx) (s : State), decodeWord (0xF#4 ++ x ++ 0x18#8) = some (.setSound x) ∧
    exec (.setSound x) s =
      .next { (s.stepDone (s.pc + 2)) with st := BitVec.ofNat 8 ((s.reg x).toNat - 1) }

/-- 70_reset_and_hazards.md R265 with 40_cycle_driver.md R103 (derived in the spec): over k steps that all complete and
write no timer, DT and ST fall by k and stop at 0. -/
def Obligations.TimersCountCompletedSteps : Prop :=
  ∀ (k : Nat) (s t : State), Host.Core.run Sys2Proof.core k s = .next t →
    (∀ (j : Nat) (u : State), j < k → Host.Core.run Sys2Proof.core j s = .next u →
      u.fault = .noFault ∧ (∀ v, step u = .next v → v.status = .ok) ∧
      (∀ x, decodeWord u.fetchWord ≠ some (.setDelay x) ∧ decodeWord u.fetchWord ≠ some (.setSound x))) →
    t.dt.toNat = s.dt.toNat - k ∧ t.st.toNat = s.st.toNat - k

/-! ### Reset, load and the ports (70_reset_and_hazards.md, 40_cycle_driver.md) -/

/-- 10_state.md R36 and 70_reset_and_hazards.md R260 (D1, D19, D26), for the state after reset and for the reset port in
any state: every piece of the core's state, memory address by address. Every byte is the one after reset; from 80 on that is
0, and below 80 it is the font, which `FontAtReset` writes out for both. -/
def Obligations.ResetLeavesTheStatedValues : Prop :=
  ∀ s t : State, (t = State.reset ∨ t = s.portReset) →
    (∀ r, t.reg r = 0) ∧ t.pc = 0x200 ∧ t.i = 0 ∧ t.sp = 0 ∧ (∀ k : Fin 16, t.stack[k.val] = 0) ∧ t.dt = 0 ∧
    t.st = 0 ∧ (∀ cx cy, t.pixel cx cy = false) ∧ t.key = 0 ∧ t.fault.code = 0 ∧ t.faultInfo = 0 ∧
    (∀ a, t.readByte a = State.reset.readByte a) ∧ (∀ a, 80 ≤ a → t.readByte a = 0)

/-- 20_memory.md R57 and 70_reset_and_hazards.md R260 ("mem[0..79] to the font"; D26): after reset, and after the reset port
in any state, glyph d stands at 5d, five bytes a glyph. (Glyph 0 is the source's; glyphs 1..F are general knowledge, D15:
UNVERIFIED, log 4.) -/
def Obligations.FontAtReset : Prop :=
  ∀ s t : State, (t = State.reset ∨ t = s.portReset) → ∀ d : Fin 16,
    [[0xF0, 0x90, 0x90, 0x90, 0xF0], [0x20, 0x60, 0x20, 0x20, 0x70], [0xF0, 0x10, 0xF0, 0x80, 0xF0],
     [0xF0, 0x10, 0xF0, 0x10, 0xF0], [0x90, 0x90, 0xF0, 0x10, 0x10], [0xF0, 0x80, 0xF0, 0x10, 0xF0],
     [0xF0, 0x80, 0xF0, 0x90, 0xF0], [0xF0, 0x10, 0x20, 0x40, 0x40], [0xF0, 0x90, 0xF0, 0x90, 0xF0],
     [0xF0, 0x90, 0xF0, 0x10, 0xF0], [0xF0, 0x90, 0xF0, 0x90, 0x90], [0xE0, 0x90, 0xE0, 0x90, 0xE0],
     [0xF0, 0x80, 0x80, 0x80, 0xF0], [0xE0, 0x90, 0x90, 0x90, 0xE0], [0xF0, 0x80, 0xF0, 0x80, 0xF0],
     [0xF0, 0x80, 0xF0, 0x80, 0x80]][d.val]? =
    some ([0, 1, 2, 3, 4].map fun k => t.readByte (5 * d.val + k))

/-- 40_cycle_driver.md R106 and 60_exceptions.md R244 (D18): an image of at most 3584 bytes is copied verbatim from 0x200
and nothing else changes (but the boot order, log 9); a longer one answers LOAD_ERROR and writes nothing. A load out of the
boot order is refused by name (70_reset_and_hazards.md R261; log 9). -/
def Obligations.LoadCopiesTheImageOrErrs : Prop :=
  ∀ (s : State) (image : List Byte),
    (s.phase = .fresh → image.length ≤ 3584 → ∃ t, hostAct (.load image) s = .next (t, .load .ok) ∧
      (∀ k : Fin image.length, t.readByte (0x200 + k.val) = image[k.val]) ∧
      (∀ a : Nat, (a < 0x200 ∨ 0x200 + image.length ≤ a) → t.readByte a = s.readByte a) ∧
      t = { s with mem := t.mem, phase := .loaded }) ∧
    (s.phase = .fresh → 3584 < image.length → hostAct (.load image) s = .next (s, .load .loadError)) ∧
    (s.phase ≠ .fresh → hostAct (.load image) s = .refused .loadOutOfOrder)

/-- 70_reset_and_hazards.md R261 with 40_cycle_driver.md R106, R100 (D18): after reset and load, the first step executes
the image's first word. That `inputs` is empty after it rests on log 3 (empty at reset), that `draws` is 1 on log 2 (0 at
reset, one draw a step), and the phases `loaded` and `running` on log 9: the model's choices. -/
def Obligations.FirstStepRunsTheImagesFirstWord : Prop :=
  ∀ (hi lo : Byte) (rest : List Byte) (i : Instr), rest.length ≤ 3582 → decodeWord (hi ++ lo) = some i →
    ∃ t u, hostAct (.load (hi :: lo :: rest)) State.reset = .next (t, .load .ok) ∧ exec i t = .next u ∧
      step t = .next { u with inputs := [], draws := 1, phase := .running }

/-- 40_cycle_driver.md R104, R108, R112 and 42_alu.md R152 (D16, D21): the byte on `rand_in` is the byte a `rand` at PC
reads, whatever it is, and the host gets the status OK back. (That the host's coming `inputs` stay is log 3.) -/
def Obligations.RandPortSuppliesTheByte : Prop :=
  ∀ (s : State) (r : Byte) (x : RegIdx) (nn : Byte), s.fault = .noFault → s.pc.toNat ≤ 0xFFE →
    s.fetchWord = 0xC#4 ++ x ++ nn →
    ∃ t, hostAct (.step r) s = .next (t, .status .ok) ∧ t.reg x = r &&& nn ∧ t.pc = s.pc + 2 ∧
      (∀ q, q ≠ x → t.reg q = s.reg q) ∧ t.mem = s.mem ∧ t.key = s.key ∧ t.inputs = s.inputs

/-- 40_cycle_driver.md R108, R112 and 60_exceptions.md R230 (D2, D21): the number of each fault code, and the cell order of
`bitmap_out`: cell (x, y) at 64 y + x, 2048 of them; reading changes nothing. And the port the other way: `keys_in` writes
KEY, bit k for key k, and nothing else, and the host gets nothing back. -/
def Obligations.OutputPortsShowLatchAndBitmap : Prop :=
  (∀ s : State, hostAct .readFault s = .next (s, .fault s.fault.code s.faultInfo)) ∧
  FaultCode.noFault.code = 0 ∧ FaultCode.unknownOpcode.code = 1 ∧ FaultCode.stackOverflow.code = 2 ∧
  FaultCode.stackUnderflow.code = 3 ∧ FaultCode.drawOutOfBounds.code = 4 ∧ FaultCode.memoryOutOfBounds.code = 5 ∧
  FaultCode.fetchOutOfBounds.code = 6 ∧ FaultCode.keyIndexOutOfRange.code = 7 ∧
  (∀ s : State, ∃ cells, hostAct .readBitmap s = .next (s, .bitmap cells) ∧ cells.length = 2048 ∧
    ∀ x y : Nat, x < 64 → y < 32 → cells[64 * y + x]? = some (s.pixel x y)) ∧
  (∀ (s : State) (keys : Word), hostAct (.setKeys keys) s = .next ({ s with key := keys }, .nothing))

/-! ### The invariant -/

/-- The invariant `State.Inv` (10_state.md R27, R29, R33; 20_memory.md R50; 40_cycle_driver.md R102, R108; 60_exceptions.md
R230, R232) is kept by every step from every state that has it. Its clause on the boot order is over `phase`, log 9; the
next-state form of a fault is log 7. -/
def Obligations.EveryStepKeepsInv : Prop := ∀ s t : State, s.Inv → step s = .next t → t.Inv

/-- The invariant is kept by everything the host can do between steps (40_cycle_driver.md R112). The boot order that refuses a
late load is log 9, and the OK that the reset port leaves on the status port is log 8. -/
def Obligations.EveryHostActionKeepsInv : Prop :=
  ∀ (a : HostAction) (s t : State) (reply : HostReply), s.Inv → hostAct a s = .next (t, reply) → t.Inv

/-- The invariant holds of the state after reset (10_state.md R36). Its clause on the status port holds there because `status`
is OK at reset, which the spec does not give: the model's choice, log 8 (DESIGN CHOICE); its clause on the boot order is over
`phase`, log 9. -/
def Obligations.ResetHasInv : Prop := State.reset.Inv
end

