-- ==== Sys2Proof/Laws/Memory.lean ====
section
/-! SUPPORT. The laws of memory: a read after a write, the canonical form, and that equal memories are equal lists
(20_memory.md R50, R60). -/

namespace Sys2Proof.Machine

/-! ### The sizes, as numbers (00_scope.md R6) -/

theorem memSize_eq : Config.memSize = 4096 := rfl
theorem columns_eq : Config.columns = 64 := rfl
theorem rows_eq : Config.rows = 32 := rfl
theorem loadOffset_eq : Config.loadOffset = 0x200 := rfl
theorem loadMax_eq : Config.loadMax = 3584 := rfl

/-! ### A read after a write -/

theorem Memory.lookup_insert (m : Memory) (a b : Nat) (c : Byte) :
    Memory.lookup (Memory.insert m a c) b = if b = a then some c else Memory.lookup m b := by
  induction m with
  | nil => simp [insert, lookup, eq_comm]
  | cons h m ih =>
    obtain ⟨k, d⟩ := h
    simp only [insert]
    split_ifs with h1 h2 h3 h3 <;> simp [lookup, ih] <;> grind

theorem Memory.lookup_erase (m : Memory) (a b : Nat) :
    Memory.lookup (Memory.erase m a) b = if b = a then none else Memory.lookup m b := by
  induction m with
  | nil => simp [erase, lookup]
  | cons h m ih =>
    obtain ⟨k, d⟩ := h
    simp only [erase]
    split_ifs with h1 h2 h2 <;> simp [lookup, ih] <;> grind

/-- A read after a write: the byte at its own address, every other address as before (20_memory.md R60). -/
theorem Memory.read_write (m : Memory) {a : Nat} (ha : a < Config.memSize) (b : Byte) (c : Nat) :
    Memory.read (Memory.write m a b) c = if c = a then b else Memory.read m c := by
  unfold write read
  split_ifs with h1 h2 <;> simp_all [lookup_erase, lookup_insert]

theorem Memory.read_write_of_ge (m : Memory) {a : Nat} (ha : Config.memSize ≤ a) (b : Byte) :
    Memory.write m a b = m := by
  unfold write; split_ifs <;> first | rfl | omega

/-- A read after a store of several bytes (20_memory.md R52, R60). -/
theorem Memory.read_writeBytes (bs : List Byte) (m : Memory) {a : Nat} (ha : a + bs.length ≤ Config.memSize)
    (c : Nat) : Memory.read (Memory.writeBytes m a bs) c =
      if h : a ≤ c ∧ c < a + bs.length then bs[c - a]'(by omega) else Memory.read m c := by
  induction bs generalizing m a with
  | nil => simp [writeBytes]
  | cons b bs ih =>
    simp only [List.length_cons] at ha ⊢
    rw [writeBytes, ih _ (by omega), read_write _ (by omega)]
    split_ifs with h1 h2 h3 h4 h5
    · obtain ⟨d, hd⟩ : ∃ d, c - a = d + 1 := ⟨c - a - 1, by omega⟩
      have : c - (a + 1) = d := by omega
      simp [hd, this]
    · omega
    · subst h3; simp
    · omega
    · omega
    · rfl

theorem Memory.length_readBytes (m : Memory) (a n : Nat) : (Memory.readBytes m a n).length = n := by
  induction n generalizing a with
  | zero => rfl
  | succ n ih => simp [readBytes, ih]

theorem Memory.getElem_readBytes (m : Memory) (a n k : Nat) (h : k < (Memory.readBytes m a n).length) :
    (Memory.readBytes m a n)[k] = Memory.read m (a + k) := by
  induction n generalizing a k with
  | zero => simp [readBytes] at h
  | succ n ih =>
    cases k with
    | zero => rfl
    | succ k => simp [readBytes, ih, Nat.add_assoc, Nat.add_comm 1 k]

/-! ### The canonical form -/

theorem Memory.wfFrom_mono {m : Memory} {lo lo' : Nat} (h : Memory.wfFrom lo m = true) (hl : lo' ≤ lo) :
    Memory.wfFrom lo' m = true := by
  cases m with
  | nil => rfl
  | cons h' m => obtain ⟨k, b⟩ := h'; simp [wfFrom] at h ⊢; exact ⟨⟨⟨by omega, h.1.1.2⟩, h.1.2⟩, h.2⟩

theorem Memory.wfFrom_insert {m : Memory} {lo a : Nat} {b : Byte} (h : Memory.wfFrom lo m = true) (hlo : lo ≤ a)
    (ha : a < Config.memSize) (hb : b ≠ resetByte a) : Memory.wfFrom lo (Memory.insert m a b) = true := by
  induction m generalizing lo with
  | nil => simp [insert, wfFrom, hlo, ha, hb]
  | cons h' m ih =>
    obtain ⟨k, c⟩ := h'
    simp only [wfFrom, Bool.and_eq_true, decide_eq_true_eq] at h
    obtain ⟨⟨⟨h1, h2⟩, h3⟩, h4⟩ := h
    simp only [insert]
    split_ifs with g1 g2
    · simp only [wfFrom, Bool.and_eq_true, decide_eq_true_eq]
      exact ⟨⟨⟨hlo, ha⟩, hb⟩, ⟨⟨by omega, h2⟩, h3⟩, h4⟩
    · subst g2; simp only [wfFrom, Bool.and_eq_true, decide_eq_true_eq]
      exact ⟨⟨⟨hlo, ha⟩, hb⟩, h4⟩
    · simp only [wfFrom, Bool.and_eq_true, decide_eq_true_eq]
      exact ⟨⟨⟨h1, h2⟩, h3⟩, ih h4 (by omega)⟩

theorem Memory.wfFrom_erase {m : Memory} {lo : Nat} (a : Nat) (h : Memory.wfFrom lo m = true) :
    Memory.wfFrom lo (Memory.erase m a) = true := by
  induction m generalizing lo with
  | nil => rfl
  | cons h' m ih =>
    obtain ⟨k, c⟩ := h'
    simp only [wfFrom, Bool.and_eq_true, decide_eq_true_eq] at h
    obtain ⟨⟨⟨h1, h2⟩, h3⟩, h4⟩ := h
    simp only [erase]
    split_ifs with g
    · exact wfFrom_mono (ih h4) (by omega)
    · simp only [wfFrom, Bool.and_eq_true, decide_eq_true_eq]
      exact ⟨⟨⟨h1, h2⟩, h3⟩, ih h4⟩

/-- A write keeps the canonical form. -/
theorem Memory.wf_write {m : Memory} (a : Nat) (b : Byte) (h : Memory.wf m = true) :
    Memory.wf (Memory.write m a b) = true := by
  unfold write
  split_ifs with h1 h2
  · exact wfFrom_erase a h
  · exact wfFrom_insert h (Nat.zero_le a) h1 h2
  · exact h

/-- A store of several bytes keeps the canonical form. -/
theorem Memory.wf_writeBytes {m : Memory} (a : Nat) (bs : List Byte) (h : Memory.wf m = true) :
    Memory.wf (Memory.writeBytes m a bs) = true := by
  induction bs generalizing m a with
  | nil => exact h
  | cons b bs ih => exact ih (a + 1) (wf_write a b h)

/-- The memory of the reset state has the canonical form: it lists nothing. -/
theorem Memory.wf_reset : Memory.wf State.reset.mem = true := rfl

theorem Memory.lookup_eq_none_of_lt {m : Memory} {lo a : Nat} (h : Memory.wfFrom lo m = true) (ha : a < lo) :
    Memory.lookup m a = none := by
  induction m generalizing lo with
  | nil => rfl
  | cons h' m ih =>
    obtain ⟨k, c⟩ := h'
    simp only [wfFrom, Bool.and_eq_true, decide_eq_true_eq] at h
    obtain ⟨⟨⟨h1, h2⟩, h3⟩, h4⟩ := h
    rw [lookup, if_neg (by omega), ih h4 (by omega)]

theorem Memory.read_of_lt {m : Memory} {lo a : Nat} (h : Memory.wfFrom lo m = true) (ha : a < lo) :
    Memory.read m a = resetByte a := by
  simp [read, lookup_eq_none_of_lt h ha]

theorem Memory.eq_of_read_eq_from {m m' : Memory} {lo : Nat} (h : Memory.wfFrom lo m = true)
    (h' : Memory.wfFrom lo m' = true) (hr : ∀ a, Memory.read m a = Memory.read m' a) : m = m' := by
  induction m generalizing m' lo with
  | nil =>
    cases m' with
    | nil => rfl
    | cons p m' =>
      obtain ⟨k, c⟩ := p
      simp only [wfFrom, Bool.and_eq_true, decide_eq_true_eq] at h'
      exact absurd (by simpa [read, lookup] using (hr k).symm) h'.1.2
  | cons p m ih =>
    obtain ⟨k, c⟩ := p
    simp only [wfFrom, Bool.and_eq_true, decide_eq_true_eq] at h
    obtain ⟨⟨⟨h1, h2⟩, h3⟩, h4⟩ := h
    cases m' with
    | nil => exact absurd (by simpa [read, lookup] using hr k) h3
    | cons p' m' =>
      obtain ⟨k', c'⟩ := p'
      simp only [wfFrom, Bool.and_eq_true, decide_eq_true_eq] at h'
      obtain ⟨⟨⟨h1', h2'⟩, h3'⟩, h4'⟩ := h'
      have hk : k = k' := by
        rcases Nat.lt_trichotomy k k' with hlt | heq | hgt
        · exact absurd (by
            have := hr k
            rw [read_of_lt (lo := k') (m := (k', c') :: m') (by simp [wfFrom, h2', h3', h4']) hlt] at this
            simpa [read, lookup] using this) h3
        · exact heq
        · exact absurd (by
            have := (hr k').symm
            rw [read_of_lt (lo := k) (m := (k, c) :: m) (by simp [wfFrom, h2, h3, h4]) hgt] at this
            simpa [read, lookup] using this) h3'
      subst hk
      have hc : c = c' := by simpa [read, lookup] using hr k
      subst hc
      congr 1
      refine ih h4 h4' fun a => ?_
      by_cases hak : a = k
      · subst hak; rw [read_of_lt h4 (by omega), read_of_lt h4' (by omega)]
      · simpa [read, lookup, Ne.symm hak] using hr a

/-- Equal memories are equal lists: the canonical form is canonical. -/
theorem Memory.eq_of_read_eq {m m' : Memory} (h : Memory.wf m = true) (h' : Memory.wf m' = true)
    (hr : ∀ a, Memory.read m a = Memory.read m' a) : m = m' := eq_of_read_eq_from h h' hr

end Sys2Proof.Machine
end

