-- ==== Sys2Proof/Laws/State.lean ====
section
/-! SUPPORT. One lemma per field per update of State, each true by rfl, so that no later proof unfolds a record
update. -/

namespace Sys2Proof.Machine

variable (s : State)

/-! ### `State.setReg` -/

@[simp] theorem State.setReg_v (x : RegIdx) (b : Byte) : (s.setReg x b).v = s.v.set x.toNat b x.isLt := rfl
@[simp] theorem State.setReg_pc (x : RegIdx) (b : Byte) : (s.setReg x b).pc = s.pc := rfl
@[simp] theorem State.setReg_i (x : RegIdx) (b : Byte) : (s.setReg x b).i = s.i := rfl
@[simp] theorem State.setReg_sp (x : RegIdx) (b : Byte) : (s.setReg x b).sp = s.sp := rfl
@[simp] theorem State.setReg_stack (x : RegIdx) (b : Byte) : (s.setReg x b).stack = s.stack := rfl
@[simp] theorem State.setReg_dt (x : RegIdx) (b : Byte) : (s.setReg x b).dt = s.dt := rfl
@[simp] theorem State.setReg_st (x : RegIdx) (b : Byte) : (s.setReg x b).st = s.st := rfl
@[simp] theorem State.setReg_bm (x : RegIdx) (b : Byte) : (s.setReg x b).bm = s.bm := rfl
@[simp] theorem State.setReg_key (x : RegIdx) (b : Byte) : (s.setReg x b).key = s.key := rfl
@[simp] theorem State.setReg_mem (x : RegIdx) (b : Byte) : (s.setReg x b).mem = s.mem := rfl
@[simp] theorem State.setReg_fault (x : RegIdx) (b : Byte) : (s.setReg x b).fault = s.fault := rfl
@[simp] theorem State.setReg_faultInfo (x : RegIdx) (b : Byte) : (s.setReg x b).faultInfo = s.faultInfo := rfl
@[simp] theorem State.setReg_status (x : RegIdx) (b : Byte) : (s.setReg x b).status = s.status := rfl
@[simp] theorem State.setReg_edgePolicy (x : RegIdx) (b : Byte) : (s.setReg x b).edgePolicy = s.edgePolicy := rfl
@[simp] theorem State.setReg_inputs (x : RegIdx) (b : Byte) : (s.setReg x b).inputs = s.inputs := rfl
@[simp] theorem State.setReg_draws (x : RegIdx) (b : Byte) : (s.setReg x b).draws = s.draws := rfl
@[simp] theorem State.setReg_phase (x : RegIdx) (b : Byte) : (s.setReg x b).phase = s.phase := rfl
@[simp] theorem State.setReg_readByte (x : RegIdx) (b : Byte) (a : Nat) : (s.setReg x b).readByte a = s.readByte a := rfl
@[simp] theorem State.setReg_pixel (x : RegIdx) (b : Byte) (cx cy : Nat) : (s.setReg x b).pixel cx cy = s.pixel cx cy := rfl

/-! ### `State.setFlag` -/

@[simp] theorem State.setFlag_v (b : Bool) : (s.setFlag b).v = (s.setReg flagReg (flagByte b)).v := rfl
@[simp] theorem State.setFlag_pc (b : Bool) : (s.setFlag b).pc = s.pc := rfl
@[simp] theorem State.setFlag_i (b : Bool) : (s.setFlag b).i = s.i := rfl
@[simp] theorem State.setFlag_sp (b : Bool) : (s.setFlag b).sp = s.sp := rfl
@[simp] theorem State.setFlag_stack (b : Bool) : (s.setFlag b).stack = s.stack := rfl
@[simp] theorem State.setFlag_dt (b : Bool) : (s.setFlag b).dt = s.dt := rfl
@[simp] theorem State.setFlag_st (b : Bool) : (s.setFlag b).st = s.st := rfl
@[simp] theorem State.setFlag_bm (b : Bool) : (s.setFlag b).bm = s.bm := rfl
@[simp] theorem State.setFlag_key (b : Bool) : (s.setFlag b).key = s.key := rfl
@[simp] theorem State.setFlag_mem (b : Bool) : (s.setFlag b).mem = s.mem := rfl
@[simp] theorem State.setFlag_fault (b : Bool) : (s.setFlag b).fault = s.fault := rfl
@[simp] theorem State.setFlag_faultInfo (b : Bool) : (s.setFlag b).faultInfo = s.faultInfo := rfl
@[simp] theorem State.setFlag_status (b : Bool) : (s.setFlag b).status = s.status := rfl
@[simp] theorem State.setFlag_edgePolicy (b : Bool) : (s.setFlag b).edgePolicy = s.edgePolicy := rfl
@[simp] theorem State.setFlag_inputs (b : Bool) : (s.setFlag b).inputs = s.inputs := rfl
@[simp] theorem State.setFlag_draws (b : Bool) : (s.setFlag b).draws = s.draws := rfl
@[simp] theorem State.setFlag_phase (b : Bool) : (s.setFlag b).phase = s.phase := rfl
@[simp] theorem State.setFlag_readByte (b : Bool) (a : Nat) : (s.setFlag b).readByte a = s.readByte a := rfl
@[simp] theorem State.setFlag_pixel (b : Bool) (cx cy : Nat) : (s.setFlag b).pixel cx cy = s.pixel cx cy := rfl

/-! ### `State.setI` -/

@[simp] theorem State.setI_v (w : Word) : (s.setI w).v = s.v := rfl
@[simp] theorem State.setI_pc (w : Word) : (s.setI w).pc = s.pc := rfl
@[simp] theorem State.setI_i (w : Word) : (s.setI w).i = w := rfl
@[simp] theorem State.setI_sp (w : Word) : (s.setI w).sp = s.sp := rfl
@[simp] theorem State.setI_stack (w : Word) : (s.setI w).stack = s.stack := rfl
@[simp] theorem State.setI_dt (w : Word) : (s.setI w).dt = s.dt := rfl
@[simp] theorem State.setI_st (w : Word) : (s.setI w).st = s.st := rfl
@[simp] theorem State.setI_bm (w : Word) : (s.setI w).bm = s.bm := rfl
@[simp] theorem State.setI_key (w : Word) : (s.setI w).key = s.key := rfl
@[simp] theorem State.setI_mem (w : Word) : (s.setI w).mem = s.mem := rfl
@[simp] theorem State.setI_fault (w : Word) : (s.setI w).fault = s.fault := rfl
@[simp] theorem State.setI_faultInfo (w : Word) : (s.setI w).faultInfo = s.faultInfo := rfl
@[simp] theorem State.setI_status (w : Word) : (s.setI w).status = s.status := rfl
@[simp] theorem State.setI_edgePolicy (w : Word) : (s.setI w).edgePolicy = s.edgePolicy := rfl
@[simp] theorem State.setI_inputs (w : Word) : (s.setI w).inputs = s.inputs := rfl
@[simp] theorem State.setI_draws (w : Word) : (s.setI w).draws = s.draws := rfl
@[simp] theorem State.setI_phase (w : Word) : (s.setI w).phase = s.phase := rfl
@[simp] theorem State.setI_readByte (w : Word) (a : Nat) : (s.setI w).readByte a = s.readByte a := rfl
@[simp] theorem State.setI_reg (w : Word) (r : RegIdx) : (s.setI w).reg r = s.reg r := rfl
@[simp] theorem State.setI_pixel (w : Word) (cx cy : Nat) : (s.setI w).pixel cx cy = s.pixel cx cy := rfl

/-! ### `State.setDelay` -/

@[simp] theorem State.setDelay_v (b : Byte) : (s.setDelay b).v = s.v := rfl
@[simp] theorem State.setDelay_pc (b : Byte) : (s.setDelay b).pc = s.pc := rfl
@[simp] theorem State.setDelay_i (b : Byte) : (s.setDelay b).i = s.i := rfl
@[simp] theorem State.setDelay_sp (b : Byte) : (s.setDelay b).sp = s.sp := rfl
@[simp] theorem State.setDelay_stack (b : Byte) : (s.setDelay b).stack = s.stack := rfl
@[simp] theorem State.setDelay_dt (b : Byte) : (s.setDelay b).dt = b := rfl
@[simp] theorem State.setDelay_st (b : Byte) : (s.setDelay b).st = s.st := rfl
@[simp] theorem State.setDelay_bm (b : Byte) : (s.setDelay b).bm = s.bm := rfl
@[simp] theorem State.setDelay_key (b : Byte) : (s.setDelay b).key = s.key := rfl
@[simp] theorem State.setDelay_mem (b : Byte) : (s.setDelay b).mem = s.mem := rfl
@[simp] theorem State.setDelay_fault (b : Byte) : (s.setDelay b).fault = s.fault := rfl
@[simp] theorem State.setDelay_faultInfo (b : Byte) : (s.setDelay b).faultInfo = s.faultInfo := rfl
@[simp] theorem State.setDelay_status (b : Byte) : (s.setDelay b).status = s.status := rfl
@[simp] theorem State.setDelay_edgePolicy (b : Byte) : (s.setDelay b).edgePolicy = s.edgePolicy := rfl
@[simp] theorem State.setDelay_inputs (b : Byte) : (s.setDelay b).inputs = s.inputs := rfl
@[simp] theorem State.setDelay_draws (b : Byte) : (s.setDelay b).draws = s.draws := rfl
@[simp] theorem State.setDelay_phase (b : Byte) : (s.setDelay b).phase = s.phase := rfl
@[simp] theorem State.setDelay_readByte (b : Byte) (a : Nat) : (s.setDelay b).readByte a = s.readByte a := rfl
@[simp] theorem State.setDelay_reg (b : Byte) (r : RegIdx) : (s.setDelay b).reg r = s.reg r := rfl
@[simp] theorem State.setDelay_pixel (b : Byte) (cx cy : Nat) : (s.setDelay b).pixel cx cy = s.pixel cx cy := rfl

/-! ### `State.setSound` -/

@[simp] theorem State.setSound_v (b : Byte) : (s.setSound b).v = s.v := rfl
@[simp] theorem State.setSound_pc (b : Byte) : (s.setSound b).pc = s.pc := rfl
@[simp] theorem State.setSound_i (b : Byte) : (s.setSound b).i = s.i := rfl
@[simp] theorem State.setSound_sp (b : Byte) : (s.setSound b).sp = s.sp := rfl
@[simp] theorem State.setSound_stack (b : Byte) : (s.setSound b).stack = s.stack := rfl
@[simp] theorem State.setSound_dt (b : Byte) : (s.setSound b).dt = s.dt := rfl
@[simp] theorem State.setSound_st (b : Byte) : (s.setSound b).st = b := rfl
@[simp] theorem State.setSound_bm (b : Byte) : (s.setSound b).bm = s.bm := rfl
@[simp] theorem State.setSound_key (b : Byte) : (s.setSound b).key = s.key := rfl
@[simp] theorem State.setSound_mem (b : Byte) : (s.setSound b).mem = s.mem := rfl
@[simp] theorem State.setSound_fault (b : Byte) : (s.setSound b).fault = s.fault := rfl
@[simp] theorem State.setSound_faultInfo (b : Byte) : (s.setSound b).faultInfo = s.faultInfo := rfl
@[simp] theorem State.setSound_status (b : Byte) : (s.setSound b).status = s.status := rfl
@[simp] theorem State.setSound_edgePolicy (b : Byte) : (s.setSound b).edgePolicy = s.edgePolicy := rfl
@[simp] theorem State.setSound_inputs (b : Byte) : (s.setSound b).inputs = s.inputs := rfl
@[simp] theorem State.setSound_draws (b : Byte) : (s.setSound b).draws = s.draws := rfl
@[simp] theorem State.setSound_phase (b : Byte) : (s.setSound b).phase = s.phase := rfl
@[simp] theorem State.setSound_readByte (b : Byte) (a : Nat) : (s.setSound b).readByte a = s.readByte a := rfl
@[simp] theorem State.setSound_reg (b : Byte) (r : RegIdx) : (s.setSound b).reg r = s.reg r := rfl
@[simp] theorem State.setSound_pixel (b : Byte) (cx cy : Nat) : (s.setSound b).pixel cx cy = s.pixel cx cy := rfl

/-! ### `State.writeBytes` -/

@[simp] theorem State.writeBytes_v (a : Nat) (bs : List Byte) : (s.writeBytes a bs).v = s.v := rfl
@[simp] theorem State.writeBytes_pc (a : Nat) (bs : List Byte) : (s.writeBytes a bs).pc = s.pc := rfl
@[simp] theorem State.writeBytes_i (a : Nat) (bs : List Byte) : (s.writeBytes a bs).i = s.i := rfl
@[simp] theorem State.writeBytes_sp (a : Nat) (bs : List Byte) : (s.writeBytes a bs).sp = s.sp := rfl
@[simp] theorem State.writeBytes_stack (a : Nat) (bs : List Byte) : (s.writeBytes a bs).stack = s.stack := rfl
@[simp] theorem State.writeBytes_dt (a : Nat) (bs : List Byte) : (s.writeBytes a bs).dt = s.dt := rfl
@[simp] theorem State.writeBytes_st (a : Nat) (bs : List Byte) : (s.writeBytes a bs).st = s.st := rfl
@[simp] theorem State.writeBytes_bm (a : Nat) (bs : List Byte) : (s.writeBytes a bs).bm = s.bm := rfl
@[simp] theorem State.writeBytes_key (a : Nat) (bs : List Byte) : (s.writeBytes a bs).key = s.key := rfl
@[simp] theorem State.writeBytes_mem (a : Nat) (bs : List Byte) : (s.writeBytes a bs).mem = Memory.writeBytes s.mem a bs := rfl
@[simp] theorem State.writeBytes_fault (a : Nat) (bs : List Byte) : (s.writeBytes a bs).fault = s.fault := rfl
@[simp] theorem State.writeBytes_faultInfo (a : Nat) (bs : List Byte) : (s.writeBytes a bs).faultInfo = s.faultInfo := rfl
@[simp] theorem State.writeBytes_status (a : Nat) (bs : List Byte) : (s.writeBytes a bs).status = s.status := rfl
@[simp] theorem State.writeBytes_edgePolicy (a : Nat) (bs : List Byte) : (s.writeBytes a bs).edgePolicy = s.edgePolicy := rfl
@[simp] theorem State.writeBytes_inputs (a : Nat) (bs : List Byte) : (s.writeBytes a bs).inputs = s.inputs := rfl
@[simp] theorem State.writeBytes_draws (a : Nat) (bs : List Byte) : (s.writeBytes a bs).draws = s.draws := rfl
@[simp] theorem State.writeBytes_phase (a : Nat) (bs : List Byte) : (s.writeBytes a bs).phase = s.phase := rfl
@[simp] theorem State.writeBytes_reg (a : Nat) (bs : List Byte) (r : RegIdx) : (s.writeBytes a bs).reg r = s.reg r := rfl
@[simp] theorem State.writeBytes_pixel (a : Nat) (bs : List Byte) (cx cy : Nat) : (s.writeBytes a bs).pixel cx cy = s.pixel cx cy := rfl

/-! ### `State.loadRegsUpTo` -/

@[simp] theorem State.loadRegsUpTo_v (x : RegIdx) (a : Nat) : (s.loadRegsUpTo x a).v = Vector.ofFn fun k => if k.val ≤ x.toNat then s.readByte (a + k.val) else s.v[k.val] := rfl
@[simp] theorem State.loadRegsUpTo_pc (x : RegIdx) (a : Nat) : (s.loadRegsUpTo x a).pc = s.pc := rfl
@[simp] theorem State.loadRegsUpTo_i (x : RegIdx) (a : Nat) : (s.loadRegsUpTo x a).i = s.i := rfl
@[simp] theorem State.loadRegsUpTo_sp (x : RegIdx) (a : Nat) : (s.loadRegsUpTo x a).sp = s.sp := rfl
@[simp] theorem State.loadRegsUpTo_stack (x : RegIdx) (a : Nat) : (s.loadRegsUpTo x a).stack = s.stack := rfl
@[simp] theorem State.loadRegsUpTo_dt (x : RegIdx) (a : Nat) : (s.loadRegsUpTo x a).dt = s.dt := rfl
@[simp] theorem State.loadRegsUpTo_st (x : RegIdx) (a : Nat) : (s.loadRegsUpTo x a).st = s.st := rfl
@[simp] theorem State.loadRegsUpTo_bm (x : RegIdx) (a : Nat) : (s.loadRegsUpTo x a).bm = s.bm := rfl
@[simp] theorem State.loadRegsUpTo_key (x : RegIdx) (a : Nat) : (s.loadRegsUpTo x a).key = s.key := rfl
@[simp] theorem State.loadRegsUpTo_mem (x : RegIdx) (a : Nat) : (s.loadRegsUpTo x a).mem = s.mem := rfl
@[simp] theorem State.loadRegsUpTo_fault (x : RegIdx) (a : Nat) : (s.loadRegsUpTo x a).fault = s.fault := rfl
@[simp] theorem State.loadRegsUpTo_faultInfo (x : RegIdx) (a : Nat) : (s.loadRegsUpTo x a).faultInfo = s.faultInfo := rfl
@[simp] theorem State.loadRegsUpTo_status (x : RegIdx) (a : Nat) : (s.loadRegsUpTo x a).status = s.status := rfl
@[simp] theorem State.loadRegsUpTo_edgePolicy (x : RegIdx) (a : Nat) : (s.loadRegsUpTo x a).edgePolicy = s.edgePolicy := rfl
@[simp] theorem State.loadRegsUpTo_inputs (x : RegIdx) (a : Nat) : (s.loadRegsUpTo x a).inputs = s.inputs := rfl
@[simp] theorem State.loadRegsUpTo_draws (x : RegIdx) (a : Nat) : (s.loadRegsUpTo x a).draws = s.draws := rfl
@[simp] theorem State.loadRegsUpTo_phase (x : RegIdx) (a : Nat) : (s.loadRegsUpTo x a).phase = s.phase := rfl
@[simp] theorem State.loadRegsUpTo_readByte (x : RegIdx) (a' : Nat) (a : Nat) : (s.loadRegsUpTo x a').readByte a = s.readByte a := rfl
@[simp] theorem State.loadRegsUpTo_pixel (x : RegIdx) (a : Nat) (cx cy : Nat) : (s.loadRegsUpTo x a).pixel cx cy = s.pixel cx cy := rfl

/-! ### `State.push` -/

@[simp] theorem State.push_v (w : Word) : (s.push w).v = s.v := rfl
@[simp] theorem State.push_pc (w : Word) : (s.push w).pc = s.pc := rfl
@[simp] theorem State.push_i (w : Word) : (s.push w).i = s.i := rfl
@[simp] theorem State.push_sp (w : Word) : (s.push w).sp = Fin.ofNat 17 (s.sp.val + 1) := rfl
@[simp] theorem State.push_stack (w : Word) : (s.push w).stack = s.stack.setIfInBounds s.sp.val w := rfl
@[simp] theorem State.push_dt (w : Word) : (s.push w).dt = s.dt := rfl
@[simp] theorem State.push_st (w : Word) : (s.push w).st = s.st := rfl
@[simp] theorem State.push_bm (w : Word) : (s.push w).bm = s.bm := rfl
@[simp] theorem State.push_key (w : Word) : (s.push w).key = s.key := rfl
@[simp] theorem State.push_mem (w : Word) : (s.push w).mem = s.mem := rfl
@[simp] theorem State.push_fault (w : Word) : (s.push w).fault = s.fault := rfl
@[simp] theorem State.push_faultInfo (w : Word) : (s.push w).faultInfo = s.faultInfo := rfl
@[simp] theorem State.push_status (w : Word) : (s.push w).status = s.status := rfl
@[simp] theorem State.push_edgePolicy (w : Word) : (s.push w).edgePolicy = s.edgePolicy := rfl
@[simp] theorem State.push_inputs (w : Word) : (s.push w).inputs = s.inputs := rfl
@[simp] theorem State.push_draws (w : Word) : (s.push w).draws = s.draws := rfl
@[simp] theorem State.push_phase (w : Word) : (s.push w).phase = s.phase := rfl
@[simp] theorem State.push_readByte (w : Word) (a : Nat) : (s.push w).readByte a = s.readByte a := rfl
@[simp] theorem State.push_reg (w : Word) (r : RegIdx) : (s.push w).reg r = s.reg r := rfl
@[simp] theorem State.push_pixel (w : Word) (cx cy : Nat) : (s.push w).pixel cx cy = s.pixel cx cy := rfl

/-! ### `State.pop` -/

@[simp] theorem State.pop_v : (s.pop).v = s.v := rfl
@[simp] theorem State.pop_pc : (s.pop).pc = s.pc := rfl
@[simp] theorem State.pop_i : (s.pop).i = s.i := rfl
@[simp] theorem State.pop_sp : (s.pop).sp = Fin.ofNat 17 (s.sp.val - 1) := rfl
@[simp] theorem State.pop_stack : (s.pop).stack = s.stack := rfl
@[simp] theorem State.pop_dt : (s.pop).dt = s.dt := rfl
@[simp] theorem State.pop_st : (s.pop).st = s.st := rfl
@[simp] theorem State.pop_bm : (s.pop).bm = s.bm := rfl
@[simp] theorem State.pop_key : (s.pop).key = s.key := rfl
@[simp] theorem State.pop_mem : (s.pop).mem = s.mem := rfl
@[simp] theorem State.pop_fault : (s.pop).fault = s.fault := rfl
@[simp] theorem State.pop_faultInfo : (s.pop).faultInfo = s.faultInfo := rfl
@[simp] theorem State.pop_status : (s.pop).status = s.status := rfl
@[simp] theorem State.pop_edgePolicy : (s.pop).edgePolicy = s.edgePolicy := rfl
@[simp] theorem State.pop_inputs : (s.pop).inputs = s.inputs := rfl
@[simp] theorem State.pop_draws : (s.pop).draws = s.draws := rfl
@[simp] theorem State.pop_phase : (s.pop).phase = s.phase := rfl
@[simp] theorem State.pop_readByte (a : Nat) : (s.pop).readByte a = s.readByte a := rfl
@[simp] theorem State.pop_reg (r : RegIdx) : (s.pop).reg r = s.reg r := rfl
@[simp] theorem State.pop_pixel (cx cy : Nat) : (s.pop).pixel cx cy = s.pixel cx cy := rfl

/-! ### `State.togglePixel` -/

@[simp] theorem State.togglePixel_v (x y : Nat) : (s.togglePixel x y).v = s.v := rfl
@[simp] theorem State.togglePixel_pc (x y : Nat) : (s.togglePixel x y).pc = s.pc := rfl
@[simp] theorem State.togglePixel_i (x y : Nat) : (s.togglePixel x y).i = s.i := rfl
@[simp] theorem State.togglePixel_sp (x y : Nat) : (s.togglePixel x y).sp = s.sp := rfl
@[simp] theorem State.togglePixel_stack (x y : Nat) : (s.togglePixel x y).stack = s.stack := rfl
@[simp] theorem State.togglePixel_dt (x y : Nat) : (s.togglePixel x y).dt = s.dt := rfl
@[simp] theorem State.togglePixel_st (x y : Nat) : (s.togglePixel x y).st = s.st := rfl
@[simp] theorem State.togglePixel_bm (x y : Nat) : (s.togglePixel x y).bm = s.bm.setIfInBounds y (s.bm.getD y 0 ^^^ BitVec.twoPow 64 x) := rfl
@[simp] theorem State.togglePixel_key (x y : Nat) : (s.togglePixel x y).key = s.key := rfl
@[simp] theorem State.togglePixel_mem (x y : Nat) : (s.togglePixel x y).mem = s.mem := rfl
@[simp] theorem State.togglePixel_fault (x y : Nat) : (s.togglePixel x y).fault = s.fault := rfl
@[simp] theorem State.togglePixel_faultInfo (x y : Nat) : (s.togglePixel x y).faultInfo = s.faultInfo := rfl
@[simp] theorem State.togglePixel_status (x y : Nat) : (s.togglePixel x y).status = s.status := rfl
@[simp] theorem State.togglePixel_edgePolicy (x y : Nat) : (s.togglePixel x y).edgePolicy = s.edgePolicy := rfl
@[simp] theorem State.togglePixel_inputs (x y : Nat) : (s.togglePixel x y).inputs = s.inputs := rfl
@[simp] theorem State.togglePixel_draws (x y : Nat) : (s.togglePixel x y).draws = s.draws := rfl
@[simp] theorem State.togglePixel_phase (x y : Nat) : (s.togglePixel x y).phase = s.phase := rfl
@[simp] theorem State.togglePixel_readByte (x y : Nat) (a : Nat) : (s.togglePixel x y).readByte a = s.readByte a := rfl
@[simp] theorem State.togglePixel_reg (x y : Nat) (r : RegIdx) : (s.togglePixel x y).reg r = s.reg r := rfl

/-! ### `State.clearBitmap` -/

@[simp] theorem State.clearBitmap_v : (s.clearBitmap).v = s.v := rfl
@[simp] theorem State.clearBitmap_pc : (s.clearBitmap).pc = s.pc := rfl
@[simp] theorem State.clearBitmap_i : (s.clearBitmap).i = s.i := rfl
@[simp] theorem State.clearBitmap_sp : (s.clearBitmap).sp = s.sp := rfl
@[simp] theorem State.clearBitmap_stack : (s.clearBitmap).stack = s.stack := rfl
@[simp] theorem State.clearBitmap_dt : (s.clearBitmap).dt = s.dt := rfl
@[simp] theorem State.clearBitmap_st : (s.clearBitmap).st = s.st := rfl
@[simp] theorem State.clearBitmap_bm : (s.clearBitmap).bm = Vector.replicate 32 0 := rfl
@[simp] theorem State.clearBitmap_key : (s.clearBitmap).key = s.key := rfl
@[simp] theorem State.clearBitmap_mem : (s.clearBitmap).mem = s.mem := rfl
@[simp] theorem State.clearBitmap_fault : (s.clearBitmap).fault = s.fault := rfl
@[simp] theorem State.clearBitmap_faultInfo : (s.clearBitmap).faultInfo = s.faultInfo := rfl
@[simp] theorem State.clearBitmap_status : (s.clearBitmap).status = s.status := rfl
@[simp] theorem State.clearBitmap_edgePolicy : (s.clearBitmap).edgePolicy = s.edgePolicy := rfl
@[simp] theorem State.clearBitmap_inputs : (s.clearBitmap).inputs = s.inputs := rfl
@[simp] theorem State.clearBitmap_draws : (s.clearBitmap).draws = s.draws := rfl
@[simp] theorem State.clearBitmap_phase : (s.clearBitmap).phase = s.phase := rfl
@[simp] theorem State.clearBitmap_readByte (a : Nat) : (s.clearBitmap).readByte a = s.readByte a := rfl
@[simp] theorem State.clearBitmap_reg (r : RegIdx) : (s.clearBitmap).reg r = s.reg r := rfl

/-! ### `State.completed` -/

@[simp] theorem State.completed_v (pc : Word) : (s.completed pc).v = s.v := rfl
@[simp] theorem State.completed_pc (pc : Word) : (s.completed pc).pc = pc := rfl
@[simp] theorem State.completed_i (pc : Word) : (s.completed pc).i = s.i := rfl
@[simp] theorem State.completed_sp (pc : Word) : (s.completed pc).sp = s.sp := rfl
@[simp] theorem State.completed_stack (pc : Word) : (s.completed pc).stack = s.stack := rfl
@[simp] theorem State.completed_dt (pc : Word) : (s.completed pc).dt = decay s.dt := rfl
@[simp] theorem State.completed_st (pc : Word) : (s.completed pc).st = decay s.st := rfl
@[simp] theorem State.completed_bm (pc : Word) : (s.completed pc).bm = s.bm := rfl
@[simp] theorem State.completed_key (pc : Word) : (s.completed pc).key = s.key := rfl
@[simp] theorem State.completed_mem (pc : Word) : (s.completed pc).mem = s.mem := rfl
@[simp] theorem State.completed_fault (pc : Word) : (s.completed pc).fault = s.fault := rfl
@[simp] theorem State.completed_faultInfo (pc : Word) : (s.completed pc).faultInfo = s.faultInfo := rfl
@[simp] theorem State.completed_status (pc : Word) : (s.completed pc).status = .ok := rfl
@[simp] theorem State.completed_edgePolicy (pc : Word) : (s.completed pc).edgePolicy = s.edgePolicy := rfl
@[simp] theorem State.completed_inputs (pc : Word) : (s.completed pc).inputs = s.inputs := rfl
@[simp] theorem State.completed_draws (pc : Word) : (s.completed pc).draws = s.draws := rfl
@[simp] theorem State.completed_phase (pc : Word) : (s.completed pc).phase = s.phase := rfl
@[simp] theorem State.completed_readByte (pc : Word) (a : Nat) : (s.completed pc).readByte a = s.readByte a := rfl
@[simp] theorem State.completed_reg (pc : Word) (r : RegIdx) : (s.completed pc).reg r = s.reg r := rfl
@[simp] theorem State.completed_pixel (pc : Word) (cx cy : Nat) : (s.completed pc).pixel cx cy = s.pixel cx cy := rfl

/-! ### `State.stalled` -/

@[simp] theorem State.stalled_v : (s.stalled).v = s.v := rfl
@[simp] theorem State.stalled_pc : (s.stalled).pc = s.pc := rfl
@[simp] theorem State.stalled_i : (s.stalled).i = s.i := rfl
@[simp] theorem State.stalled_sp : (s.stalled).sp = s.sp := rfl
@[simp] theorem State.stalled_stack : (s.stalled).stack = s.stack := rfl
@[simp] theorem State.stalled_dt : (s.stalled).dt = s.dt := rfl
@[simp] theorem State.stalled_st : (s.stalled).st = s.st := rfl
@[simp] theorem State.stalled_bm : (s.stalled).bm = s.bm := rfl
@[simp] theorem State.stalled_key : (s.stalled).key = s.key := rfl
@[simp] theorem State.stalled_mem : (s.stalled).mem = s.mem := rfl
@[simp] theorem State.stalled_fault : (s.stalled).fault = s.fault := rfl
@[simp] theorem State.stalled_faultInfo : (s.stalled).faultInfo = s.faultInfo := rfl
@[simp] theorem State.stalled_status : (s.stalled).status = .stalled := rfl
@[simp] theorem State.stalled_edgePolicy : (s.stalled).edgePolicy = s.edgePolicy := rfl
@[simp] theorem State.stalled_inputs : (s.stalled).inputs = s.inputs := rfl
@[simp] theorem State.stalled_draws : (s.stalled).draws = s.draws := rfl
@[simp] theorem State.stalled_phase : (s.stalled).phase = s.phase := rfl
@[simp] theorem State.stalled_readByte (a : Nat) : (s.stalled).readByte a = s.readByte a := rfl
@[simp] theorem State.stalled_reg (r : RegIdx) : (s.stalled).reg r = s.reg r := rfl
@[simp] theorem State.stalled_pixel (cx cy : Nat) : (s.stalled).pixel cx cy = s.pixel cx cy := rfl

/-! ### `State.latched` -/

@[simp] theorem State.latched_v (c : FaultCode) (w : Word) : (s.latched c w).v = s.v := rfl
@[simp] theorem State.latched_pc (c : FaultCode) (w : Word) : (s.latched c w).pc = s.pc := rfl
@[simp] theorem State.latched_i (c : FaultCode) (w : Word) : (s.latched c w).i = s.i := rfl
@[simp] theorem State.latched_sp (c : FaultCode) (w : Word) : (s.latched c w).sp = s.sp := rfl
@[simp] theorem State.latched_stack (c : FaultCode) (w : Word) : (s.latched c w).stack = s.stack := rfl
@[simp] theorem State.latched_dt (c : FaultCode) (w : Word) : (s.latched c w).dt = s.dt := rfl
@[simp] theorem State.latched_st (c : FaultCode) (w : Word) : (s.latched c w).st = s.st := rfl
@[simp] theorem State.latched_bm (c : FaultCode) (w : Word) : (s.latched c w).bm = s.bm := rfl
@[simp] theorem State.latched_key (c : FaultCode) (w : Word) : (s.latched c w).key = s.key := rfl
@[simp] theorem State.latched_mem (c : FaultCode) (w : Word) : (s.latched c w).mem = s.mem := rfl
@[simp] theorem State.latched_fault (c : FaultCode) (w : Word) : (s.latched c w).fault = c := rfl
@[simp] theorem State.latched_faultInfo (c : FaultCode) (w : Word) : (s.latched c w).faultInfo = w := rfl
@[simp] theorem State.latched_status (c : FaultCode) (w : Word) : (s.latched c w).status = .fault := rfl
@[simp] theorem State.latched_edgePolicy (c : FaultCode) (w : Word) : (s.latched c w).edgePolicy = s.edgePolicy := rfl
@[simp] theorem State.latched_inputs (c : FaultCode) (w : Word) : (s.latched c w).inputs = s.inputs := rfl
@[simp] theorem State.latched_draws (c : FaultCode) (w : Word) : (s.latched c w).draws = s.draws := rfl
@[simp] theorem State.latched_phase (c : FaultCode) (w : Word) : (s.latched c w).phase = s.phase := rfl
@[simp] theorem State.latched_readByte (c : FaultCode) (w : Word) (a : Nat) : (s.latched c w).readByte a = s.readByte a := rfl
@[simp] theorem State.latched_reg (c : FaultCode) (w : Word) (r : RegIdx) : (s.latched c w).reg r = s.reg r := rfl
@[simp] theorem State.latched_pixel (c : FaultCode) (w : Word) (cx cy : Nat) : (s.latched c w).pixel cx cy = s.pixel cx cy := rfl

/-! ### `State.afterStep` -/

@[simp] theorem State.afterStep_v : (s.afterStep).v = s.v := rfl
@[simp] theorem State.afterStep_pc : (s.afterStep).pc = s.pc := rfl
@[simp] theorem State.afterStep_i : (s.afterStep).i = s.i := rfl
@[simp] theorem State.afterStep_sp : (s.afterStep).sp = s.sp := rfl
@[simp] theorem State.afterStep_stack : (s.afterStep).stack = s.stack := rfl
@[simp] theorem State.afterStep_dt : (s.afterStep).dt = s.dt := rfl
@[simp] theorem State.afterStep_st : (s.afterStep).st = s.st := rfl
@[simp] theorem State.afterStep_bm : (s.afterStep).bm = s.bm := rfl
@[simp] theorem State.afterStep_key : (s.afterStep).key = s.key := rfl
@[simp] theorem State.afterStep_mem : (s.afterStep).mem = s.mem := rfl
@[simp] theorem State.afterStep_fault : (s.afterStep).fault = s.fault := rfl
@[simp] theorem State.afterStep_faultInfo : (s.afterStep).faultInfo = s.faultInfo := rfl
@[simp] theorem State.afterStep_status : (s.afterStep).status = s.status := rfl
@[simp] theorem State.afterStep_edgePolicy : (s.afterStep).edgePolicy = s.edgePolicy := rfl
@[simp] theorem State.afterStep_inputs : (s.afterStep).inputs = s.inputs.tail := rfl
@[simp] theorem State.afterStep_draws : (s.afterStep).draws = s.draws + 1 := rfl
@[simp] theorem State.afterStep_phase : (s.afterStep).phase = .running := rfl
@[simp] theorem State.afterStep_readByte (a : Nat) : (s.afterStep).readByte a = s.readByte a := rfl
@[simp] theorem State.afterStep_reg (r : RegIdx) : (s.afterStep).reg r = s.reg r := rfl
@[simp] theorem State.afterStep_pixel (cx cy : Nat) : (s.afterStep).pixel cx cy = s.pixel cx cy := rfl

/-! ### `State.portKeys` -/

@[simp] theorem State.portKeys_v (k : Word) : (s.portKeys k).v = s.v := rfl
@[simp] theorem State.portKeys_pc (k : Word) : (s.portKeys k).pc = s.pc := rfl
@[simp] theorem State.portKeys_i (k : Word) : (s.portKeys k).i = s.i := rfl
@[simp] theorem State.portKeys_sp (k : Word) : (s.portKeys k).sp = s.sp := rfl
@[simp] theorem State.portKeys_stack (k : Word) : (s.portKeys k).stack = s.stack := rfl
@[simp] theorem State.portKeys_dt (k : Word) : (s.portKeys k).dt = s.dt := rfl
@[simp] theorem State.portKeys_st (k : Word) : (s.portKeys k).st = s.st := rfl
@[simp] theorem State.portKeys_bm (k : Word) : (s.portKeys k).bm = s.bm := rfl
@[simp] theorem State.portKeys_key (k : Word) : (s.portKeys k).key = k := rfl
@[simp] theorem State.portKeys_mem (k : Word) : (s.portKeys k).mem = s.mem := rfl
@[simp] theorem State.portKeys_fault (k : Word) : (s.portKeys k).fault = s.fault := rfl
@[simp] theorem State.portKeys_faultInfo (k : Word) : (s.portKeys k).faultInfo = s.faultInfo := rfl
@[simp] theorem State.portKeys_status (k : Word) : (s.portKeys k).status = s.status := rfl
@[simp] theorem State.portKeys_edgePolicy (k : Word) : (s.portKeys k).edgePolicy = s.edgePolicy := rfl
@[simp] theorem State.portKeys_inputs (k : Word) : (s.portKeys k).inputs = s.inputs := rfl
@[simp] theorem State.portKeys_draws (k : Word) : (s.portKeys k).draws = s.draws := rfl
@[simp] theorem State.portKeys_phase (k : Word) : (s.portKeys k).phase = s.phase := rfl
@[simp] theorem State.portKeys_readByte (k : Word) (a : Nat) : (s.portKeys k).readByte a = s.readByte a := rfl
@[simp] theorem State.portKeys_reg (k : Word) (r : RegIdx) : (s.portKeys k).reg r = s.reg r := rfl
@[simp] theorem State.portKeys_pixel (k : Word) (cx cy : Nat) : (s.portKeys k).pixel cx cy = s.pixel cx cy := rfl

/-! ### `State.withRegs` -/

@[simp] theorem State.withRegs_v (f : RegIdx → Byte) : (s.withRegs f).v = Vector.ofFn fun k => f (BitVec.ofNat 4 k.val) := rfl
@[simp] theorem State.withRegs_pc (f : RegIdx → Byte) : (s.withRegs f).pc = s.pc := rfl
@[simp] theorem State.withRegs_i (f : RegIdx → Byte) : (s.withRegs f).i = s.i := rfl
@[simp] theorem State.withRegs_sp (f : RegIdx → Byte) : (s.withRegs f).sp = s.sp := rfl
@[simp] theorem State.withRegs_stack (f : RegIdx → Byte) : (s.withRegs f).stack = s.stack := rfl
@[simp] theorem State.withRegs_dt (f : RegIdx → Byte) : (s.withRegs f).dt = s.dt := rfl
@[simp] theorem State.withRegs_st (f : RegIdx → Byte) : (s.withRegs f).st = s.st := rfl
@[simp] theorem State.withRegs_bm (f : RegIdx → Byte) : (s.withRegs f).bm = s.bm := rfl
@[simp] theorem State.withRegs_key (f : RegIdx → Byte) : (s.withRegs f).key = s.key := rfl
@[simp] theorem State.withRegs_mem (f : RegIdx → Byte) : (s.withRegs f).mem = s.mem := rfl
@[simp] theorem State.withRegs_fault (f : RegIdx → Byte) : (s.withRegs f).fault = s.fault := rfl
@[simp] theorem State.withRegs_faultInfo (f : RegIdx → Byte) : (s.withRegs f).faultInfo = s.faultInfo := rfl
@[simp] theorem State.withRegs_status (f : RegIdx → Byte) : (s.withRegs f).status = s.status := rfl
@[simp] theorem State.withRegs_edgePolicy (f : RegIdx → Byte) : (s.withRegs f).edgePolicy = s.edgePolicy := rfl
@[simp] theorem State.withRegs_inputs (f : RegIdx → Byte) : (s.withRegs f).inputs = s.inputs := rfl
@[simp] theorem State.withRegs_draws (f : RegIdx → Byte) : (s.withRegs f).draws = s.draws := rfl
@[simp] theorem State.withRegs_phase (f : RegIdx → Byte) : (s.withRegs f).phase = s.phase := rfl
@[simp] theorem State.withRegs_readByte (f : RegIdx → Byte) (a : Nat) : (s.withRegs f).readByte a = s.readByte a := rfl
@[simp] theorem State.withRegs_pixel (f : RegIdx → Byte) (cx cy : Nat) : (s.withRegs f).pixel cx cy = s.pixel cx cy := rfl

/-! ### `State.stepDone` -/

@[simp] theorem State.stepDone_v (pc : Word) : (s.stepDone pc).v = s.v := rfl
@[simp] theorem State.stepDone_pc (pc : Word) : (s.stepDone pc).pc = pc := rfl
@[simp] theorem State.stepDone_i (pc : Word) : (s.stepDone pc).i = s.i := rfl
@[simp] theorem State.stepDone_sp (pc : Word) : (s.stepDone pc).sp = s.sp := rfl
@[simp] theorem State.stepDone_stack (pc : Word) : (s.stepDone pc).stack = s.stack := rfl
@[simp] theorem State.stepDone_dt (pc : Word) : (s.stepDone pc).dt = if s.dt = 0x00 then 0x00 else s.dt - 0x01 := rfl
@[simp] theorem State.stepDone_st (pc : Word) : (s.stepDone pc).st = if s.st = 0x00 then 0x00 else s.st - 0x01 := rfl
@[simp] theorem State.stepDone_bm (pc : Word) : (s.stepDone pc).bm = s.bm := rfl
@[simp] theorem State.stepDone_key (pc : Word) : (s.stepDone pc).key = s.key := rfl
@[simp] theorem State.stepDone_mem (pc : Word) : (s.stepDone pc).mem = s.mem := rfl
@[simp] theorem State.stepDone_fault (pc : Word) : (s.stepDone pc).fault = s.fault := rfl
@[simp] theorem State.stepDone_faultInfo (pc : Word) : (s.stepDone pc).faultInfo = s.faultInfo := rfl
@[simp] theorem State.stepDone_status (pc : Word) : (s.stepDone pc).status = .ok := rfl
@[simp] theorem State.stepDone_edgePolicy (pc : Word) : (s.stepDone pc).edgePolicy = s.edgePolicy := rfl
@[simp] theorem State.stepDone_inputs (pc : Word) : (s.stepDone pc).inputs = s.inputs := rfl
@[simp] theorem State.stepDone_draws (pc : Word) : (s.stepDone pc).draws = s.draws := rfl
@[simp] theorem State.stepDone_phase (pc : Word) : (s.stepDone pc).phase = s.phase := rfl
@[simp] theorem State.stepDone_readByte (pc : Word) (a : Nat) : (s.stepDone pc).readByte a = s.readByte a := rfl
@[simp] theorem State.stepDone_reg (pc : Word) (r : RegIdx) : (s.stepDone pc).reg r = s.reg r := rfl
@[simp] theorem State.stepDone_pixel (pc : Word) (cx cy : Nat) : (s.stepDone pc).pixel cx cy = s.pixel cx cy := rfl

/-! ### `State.stepFaulted` -/

@[simp] theorem State.stepFaulted_v (c : FaultCode) (w : Word) : (s.stepFaulted c w).v = s.v := rfl
@[simp] theorem State.stepFaulted_pc (c : FaultCode) (w : Word) : (s.stepFaulted c w).pc = s.pc := rfl
@[simp] theorem State.stepFaulted_i (c : FaultCode) (w : Word) : (s.stepFaulted c w).i = s.i := rfl
@[simp] theorem State.stepFaulted_sp (c : FaultCode) (w : Word) : (s.stepFaulted c w).sp = s.sp := rfl
@[simp] theorem State.stepFaulted_stack (c : FaultCode) (w : Word) : (s.stepFaulted c w).stack = s.stack := rfl
@[simp] theorem State.stepFaulted_dt (c : FaultCode) (w : Word) : (s.stepFaulted c w).dt = s.dt := rfl
@[simp] theorem State.stepFaulted_st (c : FaultCode) (w : Word) : (s.stepFaulted c w).st = s.st := rfl
@[simp] theorem State.stepFaulted_bm (c : FaultCode) (w : Word) : (s.stepFaulted c w).bm = s.bm := rfl
@[simp] theorem State.stepFaulted_key (c : FaultCode) (w : Word) : (s.stepFaulted c w).key = s.key := rfl
@[simp] theorem State.stepFaulted_mem (c : FaultCode) (w : Word) : (s.stepFaulted c w).mem = s.mem := rfl
@[simp] theorem State.stepFaulted_fault (c : FaultCode) (w : Word) : (s.stepFaulted c w).fault = c := rfl
@[simp] theorem State.stepFaulted_faultInfo (c : FaultCode) (w : Word) : (s.stepFaulted c w).faultInfo = w := rfl
@[simp] theorem State.stepFaulted_status (c : FaultCode) (w : Word) : (s.stepFaulted c w).status = .fault := rfl
@[simp] theorem State.stepFaulted_edgePolicy (c : FaultCode) (w : Word) : (s.stepFaulted c w).edgePolicy = s.edgePolicy := rfl
@[simp] theorem State.stepFaulted_inputs (c : FaultCode) (w : Word) : (s.stepFaulted c w).inputs = s.inputs := rfl
@[simp] theorem State.stepFaulted_draws (c : FaultCode) (w : Word) : (s.stepFaulted c w).draws = s.draws := rfl
@[simp] theorem State.stepFaulted_phase (c : FaultCode) (w : Word) : (s.stepFaulted c w).phase = s.phase := rfl
@[simp] theorem State.stepFaulted_readByte (c : FaultCode) (w : Word) (a : Nat) : (s.stepFaulted c w).readByte a = s.readByte a := rfl
@[simp] theorem State.stepFaulted_reg (c : FaultCode) (w : Word) (r : RegIdx) : (s.stepFaulted c w).reg r = s.reg r := rfl
@[simp] theorem State.stepFaulted_pixel (c : FaultCode) (w : Word) (cx cy : Nat) : (s.stepFaulted c w).pixel cx cy = s.pixel cx cy := rfl

end Sys2Proof.Machine
end

