-- ==== Sys2Proof/Laws/Ops.lean ====
section
/-! SUPPORT. What each shared operation can do, once: registers, memory ranges, the stack, the key operands, the three
ends of an instruction, the step's inputs. -/

namespace Sys2Proof.Machine

variable (s : State)

/-! ### Registers (10_state.md R20, R21) -/

@[simp] theorem State.reg_setReg (x r : RegIdx) (b : Byte) :
    (s.setReg x b).reg r = if r = x then b else s.reg r := by
  unfold reg setReg
  rw [Vector.getElem_set]
  simp only [BitVec.toNat_inj]
  split_ifs with h h' h' <;> first | rfl | simp_all

@[simp] theorem State.reg_setFlag (f : Bool) (r : RegIdx) :
    (s.setFlag f).reg r = if r = 0xF then flagByte f else s.reg r := by
  rw [setFlag, reg_setReg]; rfl

@[simp] theorem State.reg_withRegs (f : RegIdx → Byte) (r : RegIdx) : (s.withRegs f).reg r = f r := by
  simp [reg, withRegs]

@[simp] theorem State.reg_loadRegsUpTo (x r : RegIdx) (a : Nat) :
    (s.loadRegsUpTo x a).reg r = if r.toNat ≤ x.toNat then s.readByte (a + r.toNat) else s.reg r := by
  simp [reg, loadRegsUpTo]

/-- A register file is its sixteen registers. -/
theorem State.v_ext {v v' : Vector Byte 16} (h : ∀ r : RegIdx, v[r.toNat]'r.isLt = v'[r.toNat]'r.isLt) : v = v' := by
  apply Vector.ext
  intro k hk
  simpa [Nat.mod_eq_of_lt hk] using h (BitVec.ofNat 4 k)

/-- A state whose register file is `f` and whose other fields are those of `t`. -/
theorem State.eq_withRegs {t : State} {f : RegIdx → Byte} (h : ∀ r, t.reg r = f r) : t = t.withRegs f := by
  have hv : t.v = (t.withRegs f).v := v_ext fun r => (h r).trans (reg_withRegs t f r).symm
  calc t = { t with v := t.v } := rfl
    _ = { t with v := (t.withRegs f).v } := by rw [← hv]
    _ = t.withRegs f := rfl

theorem State.setReg_eq_withRegs (x : RegIdx) (b : Byte) :
    s.setReg x b = s.withRegs fun r => if r = x then b else s.reg r := by
  rw [eq_withRegs (t := s.setReg x b) (fun r => reg_setReg s x r b)]
  rfl

theorem State.length_regsUpTo (x : RegIdx) : (s.regsUpTo x).length = x.toNat + 1 := by simp [regsUpTo]

theorem State.getElem_regsUpTo (x : RegIdx) (k : Nat) (h : k < (s.regsUpTo x).length) :
    (s.regsUpTo x)[k] = s.reg (BitVec.ofNat 4 k) := by simp [regsUpTo]

/-! ### Memory (20_memory.md R54, R60) -/

/-- The range check (20_memory.md R54). -/
theorem accessFits_iff (base n : Nat) : accessFits base n = true ↔ n = 0 ∨ base + n ≤ 0x1000 := by
  simp [accessFits, Config.memSize]

/-- What a store leaves at every address (20_memory.md R60). -/
theorem State.readByte_writeBytes {a : Nat} {bs : List Byte} (h : a + bs.length ≤ 0x1000) (c : Nat) :
    (s.writeBytes a bs).readByte c =
      if h : a ≤ c ∧ c < a + bs.length then bs[c - a]'(by omega) else s.readByte c :=
  Memory.read_writeBytes bs s.mem h c

/-- A store leaves every address outside it. -/
theorem State.readByte_writeBytes_of_not_mem {a : Nat} {bs : List Byte} {c : Nat} (h : c < a ∨ a + bs.length ≤ c) :
    (s.writeBytes a bs).readByte c = s.readByte c := by
  unfold State.readByte State.writeBytes
  induction bs generalizing a s with
  | nil => rfl
  | cons b bs ih =>
    simp only [List.length_cons] at h
    rw [Memory.writeBytes, ih { s with mem := Memory.write s.mem a b } (by omega)]
    by_cases ha : a < Config.memSize
    · rw [Memory.read_write _ ha, if_neg (by omega)]
    · rw [Memory.read_write_of_ge _ (by omega)]

theorem State.length_decimalDigits (b : Byte) : (decimalDigits b).length = 3 := rfl

/-! ### Fetch (20_memory.md R53, 40_cycle_driver.md R102) -/

theorem State.fetchFits_iff : s.fetchFits = true ↔ s.pc.toNat ≤ 0xFFE := by
  simp [fetchFits, Config.memSize]; omega

theorem State.fetchWord_congr {t : State} (hp : t.pc = s.pc) (hm : t.mem = s.mem) : t.fetchWord = s.fetchWord := by
  simp [fetchWord, readByte, hp, hm]

/-! ### The stack (10_state.md R29) -/

theorem State.push_sp_val (w : Word) (h : s.sp.val < 16) : (s.push w).sp.val = s.sp.val + 1 := by
  simp [Fin.ofNat, Nat.mod_eq_of_lt (show s.sp.val + 1 < 17 by omega)]

theorem State.pop_sp_val : s.pop.sp.val = s.sp.val - 1 := by
  simp [Fin.ofNat, Nat.mod_eq_of_lt (show s.sp.val - 1 < 17 by omega)]

theorem State.stackFull_iff : s.stackFull = true ↔ s.sp.val = 16 :=
  decide_eq_true_iff.trans Fin.ext_iff

theorem State.stackEmpty_iff : s.stackEmpty = true ↔ s.sp.val = 0 :=
  decide_eq_true_iff.trans Fin.ext_iff

/-! ### The keys (45_timers_input.md R210, R214) -/

theorem keyIndexFits_iff (b : Byte) : keyIndexFits b = true ↔ b.toNat ≤ 0xF := by simp [keyIndexFits]

theorem State.leastKey_some {k : Nat} (h : s.leastKey = some k) :
    k < 16 ∧ s.keyPressed k = true ∧ ∀ j, j < k → s.keyPressed j = false := by
  obtain ⟨h1, as, bs, h2, h3⟩ := List.find?_eq_some_iff_append.mp h
  have hk : (List.range 16)[as.length]? = some k := by rw [h2]; simp
  rw [List.getElem?_range] at hk
  · have hl : as.length = k := by simpa using hk
    refine ⟨?_, h1, fun j hj => ?_⟩
    · have := congrArg List.length h2; simp at this; omega
    · have hjm : (List.range 16)[j]? = as[j]? := by
        rw [h2]; exact List.getElem?_append_left (by omega)
      have hj16 : j < 16 := by have := congrArg List.length h2; simp at this; omega
      rw [List.getElem?_range hj16] at hjm
      have : j ∈ as := List.mem_of_getElem? hjm.symm
      simpa using h3 j this
  · have := congrArg List.length h2; simp at this; omega

theorem State.leastKey_none : s.leastKey = none ↔ s.key = 0 := by
  simp only [leastKey, List.find?_eq_none, List.mem_range, keyPressed]
  constructor
  · intro h; apply BitVec.eq_of_getLsbD_eq; intro i hi; simpa using h i hi
  · intro h x _; simp [h]

/-! ### The three ends of an instruction (00_scope.md R12) -/

@[simp] theorem complete_next {t : State} (pc : Word) : complete s pc = .next t ↔ t = s.completed pc := by
  simp [complete, eq_comm]

@[simp] theorem stall_next {t : State} : stall s = .next t ↔ t = s.stalled := by simp [stall, eq_comm]

@[simp] theorem raiseFault_next {t : State} (c : FaultCode) (w : Word) :
    raiseFault s c w = .next t ↔ t = s.latched c w := by simp [raiseFault, eq_comm]

theorem State.completed_eq_stepDone (pc : Word) : s.completed pc = s.stepDone pc := rfl

theorem State.latched_eq_stepFaulted (c : FaultCode) (w : Word) : s.latched c w = s.stepFaulted c w := rfl

/-! ### The step's inputs (40_cycle_driver.md R104, R112) -/

/-- Sampling the inputs writes KEY and nothing else. -/
theorem State.sampleKeys_eq : s.sampleKeys = { s with key := (s.inputs.head?.map StepInput.keys).getD s.key } := by
  unfold sampleKeys
  split
  · next h => simp only [h, List.head?_nil, Option.map_none, Option.getD_none]; rw [← h]
  · next h => simp only [h, List.head?_cons, Option.map_some, Option.getD_some]

theorem State.randByte_nil (h : s.inputs = []) : s.randByte = Config.randSource s.draws := by simp [randByte, h]

theorem State.randByte_cons {x : StepInput} {xs : List StepInput} (h : s.inputs = x :: xs) : s.randByte = x.rand := by
  simp [randByte, h]

end Sys2Proof.Machine
end

