-- ==== Sys2Proof/Laws/Display.lean ====
section
/-! SUPPORT. The blit, cell by cell, and its flag (44_display.md R191). -/

namespace Sys2Proof.Machine

variable (s : State)

/-- The other fields a blit leaves: all but V and BM. -/
structure State.SameButVBm (s t : State) : Prop where
  eq : t = { s with v := t.v, bm := t.bm }

theorem State.SameButVBm.refl : s.SameButVBm s := ⟨rfl⟩

theorem State.SameButVBm.trans {s t u : State} (h : s.SameButVBm t) (h' : t.SameButVBm u) : s.SameButVBm u := by
  obtain ⟨h⟩ := h; obtain ⟨h'⟩ := h'; exact ⟨by rw [h'] ; rw [h]⟩

/-- A toggle inverts its own cell, when it is in the grid, and no other (44_display.md R191). -/
theorem State.pixel_togglePixel {x y : Nat} (hx : x < 64) (hy : y < 32) (cx cy : Nat) :
    (s.togglePixel x y).pixel cx cy = (s.pixel cx cy ^^ decide (cx = x ∧ cy = y)) := by
  unfold pixel togglePixel
  by_cases h : cy = y
  · subst h
    simp [Vector.getD, hy, BitVec.getLsbD_twoPow]
    by_cases h2 : cx = x
    · subst h2; simp [hx]
    · simp [h2, Ne.symm h2]
  · simp [Vector.getD, h, Ne.symm h]

theorem inGrid_iff (p : Nat × Nat) : inGrid p = true ↔ p.1 < 64 ∧ p.2 < 32 := by
  simp [inGrid, columns_eq, rows_eq]

/-- What plotting one pixel of the grid does. -/
theorem plotPixel_spec {p : Nat × Nat} (hp : inGrid p = true) :
    s.SameButVBm (plotPixel s p) ∧
    (∀ cx cy, (plotPixel s p).pixel cx cy = (s.pixel cx cy ^^ decide ((cx, cy) = p))) ∧
    (∀ r, (plotPixel s p).reg r = if r = 0xF ∧ s.pixel p.1 p.2 = true then 1 else s.reg r) := by
  obtain ⟨x, y⟩ := p
  simp only [inGrid, Bool.and_eq_true, decide_eq_true_eq] at hp
  refine ⟨?_, ?_, ?_⟩
  · unfold plotPixel; split_ifs <;> exact ⟨rfl⟩
  · intro cx cy
    unfold plotPixel
    split_ifs <;> simp [State.pixel_togglePixel _ hp.1 hp.2]
  · intro r
    unfold plotPixel
    split_ifs with h1 h2 h2 <;> simp_all [flagByte]

/-- What plotting distinct pixels of the grid does: each of their cells inverted, VF set if one of them was 1. -/
theorem plotPixels_spec (ps : List (Nat × Nat)) (hg : ∀ p ∈ ps, inGrid p = true) (hn : ps.Nodup) :
    s.SameButVBm (ps.foldl plotPixel s) ∧
    (∀ cx cy, (ps.foldl plotPixel s).pixel cx cy = (s.pixel cx cy ^^ decide ((cx, cy) ∈ ps))) ∧
    (∀ r, (ps.foldl plotPixel s).reg r = if r = 0xF ∧ ps.any (fun p => s.pixel p.1 p.2) = true then 1 else s.reg r) := by
  induction ps generalizing s with
  | nil => exact ⟨State.SameButVBm.refl s, by simp, by simp⟩
  | cons p ps ih =>
    obtain ⟨h1, h2, h3⟩ := plotPixel_spec s (hg p (by simp))
    rw [List.nodup_cons] at hn
    obtain ⟨i1, i2, i3⟩ := ih (plotPixel s p) (fun q hq => hg q (by simp [hq])) hn.2
    refine ⟨h1.trans i1, fun cx cy => ?_, fun r => ?_⟩
    · rw [List.foldl_cons, i2, h2]
      by_cases hp : (cx, cy) = p
      · subst hp; simp [hn.1]
      · simp [hp]
    · have hsame : ps.any (fun q => (plotPixel s p).pixel q.1 q.2) = ps.any (fun q => s.pixel q.1 q.2) := by
        rw [Bool.eq_iff_iff, List.any_eq_true, List.any_eq_true]
        refine exists_congr fun q => and_congr_right fun hq => ?_
        have : q ≠ p := fun e => hn.1 (e ▸ hq)
        simp [h2, this]
      rw [List.foldl_cons, i3, h3, hsame, List.any_cons]
      cases s.pixel p.1 p.2 <;> cases ps.any (fun q => s.pixel q.1 q.2) <;> simp
      exact fun h h' => absurd h h'

/-- What a blit of distinct pixels of the grid does (44_display.md R191). -/
theorem blit_spec (ps : List (Nat × Nat)) (hg : ∀ p ∈ ps, inGrid p = true) (hn : ps.Nodup) :
    s.SameButVBm (blit s ps) ∧
    (∀ cx cy, (blit s ps).pixel cx cy = (s.pixel cx cy ^^ decide ((cx, cy) ∈ ps))) ∧
    (∀ r, (blit s ps).reg r =
      if r = 0xF then flagByte (ps.any fun p => s.pixel p.1 p.2) else s.reg r) := by
  obtain ⟨h1, h2, h3⟩ := plotPixels_spec (s.setFlag false) ps hg hn
  refine ⟨State.SameButVBm.trans ⟨rfl⟩ h1, by simpa [blit] using h2, fun r => ?_⟩
  rw [blit, h3]
  simp only [State.setFlag_pixel, State.reg_setFlag]
  split_ifs <;> simp_all [flagByte]

/-- Which pixels a sprite row sets. -/
theorem mem_rowPixels (x0 y : Nat) (row : Byte) (p : Nat × Nat) :
    p ∈ rowPixels x0 y row ↔ ∃ c, c < 8 ∧ row.getLsbD (7 - c) = true ∧ p = (x0 + c, y) := by
  simp only [rowPixels, List.mem_filterMap, List.mem_range, Option.ite_none_right_eq_some, Option.some.injEq]
  constructor <;> rintro ⟨c, h1, h2, h3⟩ <;> exact ⟨c, h1, h2, h3.symm⟩

/-- Which pixels a sprite sets. -/
theorem mem_spritePixels (x0 y0 : Nat) (rows : List Byte) (p : Nat × Nat) :
    p ∈ spritePixels x0 y0 rows ↔
      ∃ r, ∃ h : r < rows.length, ∃ c, c < 8 ∧ rows[r].getLsbD (7 - c) = true ∧ p = (x0 + c, y0 + r) := by
  induction rows generalizing y0 with
  | nil => simp [spritePixels]
  | cons row rows ih =>
    rw [spritePixels, List.mem_append, mem_rowPixels, ih]
    constructor
    · rintro (⟨c, h1, h2, h3⟩ | ⟨r, hr, c, h1, h2, h3⟩)
      · exact ⟨0, by simp, c, h1, by simpa using h2, by simpa using h3⟩
      · exact ⟨r + 1, by simpa using hr, c, h1, by simpa using h2, by rw [h3]; simp; omega⟩
    · rintro ⟨r, hr, c, h1, h2, h3⟩
      cases r with
      | zero => exact .inl ⟨c, h1, by simpa using h2, by simpa using h3⟩
      | succ r => exact .inr ⟨r, by simpa using hr, c, h1, by simpa using h2, by rw [h3]; simp; omega⟩

/-- No pixel is listed twice. -/
theorem nodup_spritePixels (x0 y0 : Nat) (rows : List Byte) : (spritePixels x0 y0 rows).Nodup := by
  induction rows generalizing y0 with
  | nil => simp [spritePixels]
  | cons row rows ih =>
    rw [spritePixels, List.nodup_append]
    refine ⟨?_, ih (y0 + 1), ?_⟩
    · unfold rowPixels
      apply List.Nodup.filterMap _ List.nodup_range
      intro a b p ha hb
      simp at ha hb
      have := ha.2.trans hb.2.symm
      simp at this; exact this
    · intro p hp q hq hpq
      subst hpq
      obtain ⟨c, -, -, h⟩ := (mem_rowPixels _ _ _ _).mp hp
      obtain ⟨r, -, c', -, -, h'⟩ := (mem_spritePixels _ _ _ _).mp hq
      rw [h] at h'; simp at h'; omega

end Sys2Proof.Machine
end

