-- ==== Sys2Proof/Laws/Encoding.lean ====
section
/-! SUPPORT. The fields of a formatted word (30_encoding.md R71, R73), the bytes of a word, and no overlap in the opcode
map (R76). -/

namespace Sys2Proof

section Fields

variable (f : Nibble) (nnn : Imm12) (x y n : Nibble) (nn : Byte)

@[simp] theorem fieldF_formatA : fieldF (formatA f nnn) = f := by unfold fieldF formatA; grind
@[simp] theorem fieldNNN_formatA : fieldNNN (formatA f nnn) = nnn := by unfold fieldNNN formatA; grind
@[simp] theorem fieldF_formatXI : fieldF (formatXI f x nn) = f := by unfold fieldF formatXI; grind
@[simp] theorem fieldX_formatXI : fieldX (formatXI f x nn) = x := by unfold fieldX formatXI; grind
@[simp] theorem fieldNN_formatXI : fieldNN (formatXI f x nn) = nn := by unfold fieldNN formatXI; grind
@[simp] theorem fieldF_formatXYN : fieldF (formatXYN f x y n) = f := by unfold fieldF formatXYN; grind
@[simp] theorem fieldX_formatXYN : fieldX (formatXYN f x y n) = x := by unfold fieldX formatXYN; grind
@[simp] theorem fieldY_formatXYN : fieldY (formatXYN f x y n) = y := by unfold fieldY formatXYN; grind
@[simp] theorem fieldN_formatXYN : fieldN (formatXYN f x y n) = n := by unfold fieldN formatXYN; grind
@[simp] theorem fieldNN_formatXYN : fieldNN (formatXYN f x y n) = y ++ n := by unfold fieldNN formatXYN; grind

@[simp] theorem hiByte_wordOfBytes (hi lo : Byte) : hiByte (wordOfBytes hi lo) = hi := by
  unfold hiByte wordOfBytes; grind
@[simp] theorem loByte_wordOfBytes (hi lo : Byte) : loByte (wordOfBytes hi lo) = lo := by
  unfold loByte wordOfBytes; grind

/-- A word is its two bytes, big-endian (20_memory.md R53). -/
@[simp] theorem wordOfBytes_hiByte_loByte (w : Word) : wordOfBytes (hiByte w) (loByte w) = w := by
  apply BitVec.eq_of_toNat_eq
  simp only [wordOfBytes, hiByte, loByte, BitVec.toNat_append, BitVec.extractLsb'_toNat, Nat.shiftRight_eq_div_pow]
  have := w.isLt
  rw [← Nat.shiftLeft_add_eq_or_of_lt (by omega)]
  simp only [Nat.shiftLeft_eq]; omega

/-- A word is its four nibbles. -/
theorem formatXYN_fields (w : Word) : formatXYN (fieldF w) (fieldX w) (fieldY w) (fieldN w) = w := by
  apply BitVec.eq_of_toNat_eq
  simp only [formatXYN, fieldF, fieldX, fieldY, fieldN, BitVec.toNat_append, BitVec.extractLsb'_toNat, Nat.shiftRight_eq_div_pow]
  have := w.isLt
  rw [← Nat.shiftLeft_add_eq_or_of_lt (by omega), ← Nat.shiftLeft_add_eq_or_of_lt (by omega),
    ← Nat.shiftLeft_add_eq_or_of_lt (by omega)]
  simp only [Nat.shiftLeft_eq]; omega

/-- Masking two formatted words is masking their fields. -/
theorem formatXYN_and (f' x' y' n' : Nibble) :
    formatXYN f x y n &&& formatXYN f' x' y' n' = formatXYN (f &&& f') (x &&& x') (y &&& y') (n &&& n') := by
  apply BitVec.eq_of_getLsbD_eq
  intro i hi
  simp only [formatXYN, BitVec.getLsbD_and]
  rw [BitVec.getLsbD_append, BitVec.getLsbD_append, BitVec.getLsbD_append]
  simp only [BitVec.getLsbD_append, BitVec.getLsbD_and]
  split_ifs <;> rfl

@[simp] theorem fieldY_formatXI : fieldY (formatXI f x nn) = nn.extractLsb' 4 4 := by unfold fieldY formatXI; grind
@[simp] theorem fieldN_formatXI : fieldN (formatXI f x nn) = nn.extractLsb' 0 4 := by unfold fieldN formatXI; grind
@[simp] theorem fieldX_formatA : fieldX (formatA f nnn) = nnn.extractLsb' 8 4 := by unfold fieldX formatA; grind
@[simp] theorem fieldY_formatA : fieldY (formatA f nnn) = nnn.extractLsb' 4 4 := by unfold fieldY formatA; grind
@[simp] theorem fieldN_formatA : fieldN (formatA f nnn) = nnn.extractLsb' 0 4 := by unfold fieldN formatA; grind

/-- A word of format XI or XO, nibble by nibble. -/
theorem formatXI_eq : formatXI f x nn = formatXYN f x (nn.extractLsb' 4 4) (nn.extractLsb' 0 4) := by
  simpa using (formatXYN_fields (formatXI f x nn)).symm

/-- A word of format A, nibble by nibble. -/
theorem formatA_eq :
    formatA f nnn = formatXYN f (nnn.extractLsb' 8 4) (nnn.extractLsb' 4 4) (nnn.extractLsb' 0 4) := by
  simpa using (formatXYN_fields (formatA f nnn)).symm

theorem nibble_and_ones : n &&& 0xF = n := BitVec.and_allOnes (x := n)

/-- Under the family mask a formatted word leaves its family. -/
theorem formatXYN_and_family : formatXYN f x y n &&& 0xF000 = formatXYN f 0 0 0 := by
  rw [show (0xF000 : Word) = formatXYN 0xF 0 0 0 by decide, formatXYN_and, nibble_and_ones]; simp

/-- Under the mask of family and low nibble a formatted word leaves these two. -/
theorem formatXYN_and_family_low : formatXYN f x y n &&& 0xF00F = formatXYN f 0 0 n := by
  rw [show (0xF00F : Word) = formatXYN 0xF 0 0 0xF by decide, formatXYN_and, nibble_and_ones, nibble_and_ones]; simp

/-- Under the mask of family and low byte a formatted word leaves these two. -/
theorem formatXI_and_family_byte : formatXI f x nn &&& 0xF0FF = formatXI f 0 nn := by
  rw [show (0xF0FF : Word) = formatXYN 0xF 0 0xF 0xF by decide, formatXI_eq, formatXI_eq, formatXYN_and,
    nibble_and_ones, nibble_and_ones, nibble_and_ones]
  simp

theorem formatXI_and_family : formatXI f x nn &&& 0xF000 = formatXYN f 0 0 0 := by
  rw [formatXI_eq, formatXYN_and_family]

theorem formatA_and_family : formatA f nnn &&& 0xF000 = formatXYN f 0 0 0 := by
  rw [formatA_eq, formatXYN_and_family]

end Fields

/-- No word is selected by two rows of the opcode map: the rows do not overlap (30_encoding.md R76). -/
theorem opcodeMap_pairwise_disjoint :
    opcodeMap.Pairwise fun r r' => r.bits &&& r'.mask ≠ r'.bits &&& r.mask := by decide

/-- The table has its 34 rows, each with the mnemonics apart (30_encoding.md R76). -/
theorem opcodeMap_length : opcodeMap.length = 34 := by decide

end Sys2Proof
end

