-- ==== Sys2Proof/Laws/PerInstr.lean ====
section
/-! SUPPORT. The statements made per instruction: the encoder's word of every instruction is selected by the row of the
opcode map that carries its mnemonic (30_encoding.md R76). -/

namespace Sys2Proof.Laws.EncodesInRow

/-- The instruction's word is selected by its own row of the opcode map (30_encoding.md R76). -/
def Statement (i : Instr) : Prop :=
  ∃ r ∈ opcodeMap, r.mnemonic = i.mnemonic ∧ r.selects (encode i) = true

/-- A row with the instruction's mnemonic and bits gives the statement. -/
theorem of_row {i : Instr} (r : OpcodeRow) (hr : r ∈ opcodeMap) (hm : r.mnemonic = i.mnemonic)
    (he : encode i &&& r.mask = r.bits) : Statement i := ⟨r, hr, hm, by simp [OpcodeRow.selects, he]⟩

theorem clearScreen : Statement .clearScreen :=
  of_row ⟨"clear-screen", 0x00E0, 0xFFFF⟩ (by decide) rfl (by decide)

theorem ret : Statement .ret :=
  of_row ⟨"return", 0x00EE, 0xFFFF⟩ (by decide) rfl (by decide)

theorem jump (nnn : Imm12) : Statement (.jump nnn) :=
  of_row ⟨"jump", 0x1000, 0xF000⟩ (by decide) rfl ((formatA_and_family _ _).trans (by decide))

theorem call (nnn : Imm12) : Statement (.call nnn) :=
  of_row ⟨"call", 0x2000, 0xF000⟩ (by decide) rfl ((formatA_and_family _ _).trans (by decide))

theorem skipEqImm (x : RegIdx) (nn : Byte) : Statement (.skipEqImm x nn) :=
  of_row ⟨"skip-eq-imm", 0x3000, 0xF000⟩ (by decide) rfl ((formatXI_and_family _ _ _).trans (by decide))

theorem skipNeImm (x : RegIdx) (nn : Byte) : Statement (.skipNeImm x nn) :=
  of_row ⟨"skip-ne-imm", 0x4000, 0xF000⟩ (by decide) rfl ((formatXI_and_family _ _ _).trans (by decide))

theorem skipEqReg (x y : RegIdx) : Statement (.skipEqReg x y) :=
  of_row ⟨"skip-eq-reg", 0x5000, 0xF000⟩ (by decide) rfl ((formatXYN_and_family _ _ _ _).trans (by decide))

theorem setImm (x : RegIdx) (nn : Byte) : Statement (.setImm x nn) :=
  of_row ⟨"set-imm", 0x6000, 0xF000⟩ (by decide) rfl ((formatXI_and_family _ _ _).trans (by decide))

theorem addImm (x : RegIdx) (nn : Byte) : Statement (.addImm x nn) :=
  of_row ⟨"add-imm", 0x7000, 0xF000⟩ (by decide) rfl ((formatXI_and_family _ _ _).trans (by decide))

theorem setReg (x y : RegIdx) : Statement (.setReg x y) :=
  of_row ⟨"set-reg", 0x8000, 0xF00F⟩ (by decide) rfl ((formatXYN_and_family_low _ _ _ _).trans (by decide))

theorem orReg (x y : RegIdx) : Statement (.orReg x y) :=
  of_row ⟨"or", 0x8001, 0xF00F⟩ (by decide) rfl ((formatXYN_and_family_low _ _ _ _).trans (by decide))

theorem andReg (x y : RegIdx) : Statement (.andReg x y) :=
  of_row ⟨"and", 0x8002, 0xF00F⟩ (by decide) rfl ((formatXYN_and_family_low _ _ _ _).trans (by decide))

theorem xorReg (x y : RegIdx) : Statement (.xorReg x y) :=
  of_row ⟨"xor", 0x8003, 0xF00F⟩ (by decide) rfl ((formatXYN_and_family_low _ _ _ _).trans (by decide))

theorem addReg (x y : RegIdx) : Statement (.addReg x y) :=
  of_row ⟨"add-reg", 0x8004, 0xF00F⟩ (by decide) rfl ((formatXYN_and_family_low _ _ _ _).trans (by decide))

theorem subReg (x y : RegIdx) : Statement (.subReg x y) :=
  of_row ⟨"sub-reg", 0x8005, 0xF00F⟩ (by decide) rfl ((formatXYN_and_family_low _ _ _ _).trans (by decide))

theorem shr (x : RegIdx) : Statement (.shr x) :=
  of_row ⟨"shr", 0x8006, 0xF00F⟩ (by decide) rfl ((formatXYN_and_family_low _ _ _ _).trans (by decide))

theorem subn (x y : RegIdx) : Statement (.subn x y) :=
  of_row ⟨"subn", 0x8007, 0xF00F⟩ (by decide) rfl ((formatXYN_and_family_low _ _ _ _).trans (by decide))

theorem shl (x : RegIdx) : Statement (.shl x) :=
  of_row ⟨"shl", 0x800E, 0xF00F⟩ (by decide) rfl ((formatXYN_and_family_low _ _ _ _).trans (by decide))

theorem skipNeReg (x y : RegIdx) : Statement (.skipNeReg x y) :=
  of_row ⟨"skip-ne-reg", 0x9000, 0xF000⟩ (by decide) rfl ((formatXYN_and_family _ _ _ _).trans (by decide))

theorem setI (nnn : Imm12) : Statement (.setI nnn) :=
  of_row ⟨"set-I", 0xA000, 0xF000⟩ (by decide) rfl ((formatA_and_family _ _).trans (by decide))

theorem jumpOffset (nnn : Imm12) : Statement (.jumpOffset nnn) :=
  of_row ⟨"jump-offset", 0xB000, 0xF000⟩ (by decide) rfl ((formatA_and_family _ _).trans (by decide))

theorem rand (x : RegIdx) (nn : Byte) : Statement (.rand x nn) :=
  of_row ⟨"rand", 0xC000, 0xF000⟩ (by decide) rfl ((formatXI_and_family _ _ _).trans (by decide))

theorem draw (x y : RegIdx) (n : Nat) : Statement (.draw x y n) :=
  of_row ⟨"draw", 0xD000, 0xF000⟩ (by decide) rfl ((formatXYN_and_family _ _ _ _).trans (by decide))

theorem skipKeyPressed (x : RegIdx) : Statement (.skipKeyPressed x) :=
  of_row ⟨"skip-key-pressed", 0xE09E, 0xF0FF⟩ (by decide) rfl ((formatXI_and_family_byte _ _ _).trans (by decide))

theorem skipKeyNotPressed (x : RegIdx) : Statement (.skipKeyNotPressed x) :=
  of_row ⟨"skip-key-not-pressed", 0xE0A1, 0xF0FF⟩ (by decide) rfl ((formatXI_and_family_byte _ _ _).trans (by decide))

theorem loadDelay (x : RegIdx) : Statement (.loadDelay x) :=
  of_row ⟨"load-delay", 0xF007, 0xF0FF⟩ (by decide) rfl ((formatXI_and_family_byte _ _ _).trans (by decide))

theorem waitKey (x : RegIdx) : Statement (.waitKey x) :=
  of_row ⟨"wait-key", 0xF00A, 0xF0FF⟩ (by decide) rfl ((formatXI_and_family_byte _ _ _).trans (by decide))

theorem setDelay (x : RegIdx) : Statement (.setDelay x) :=
  of_row ⟨"set-delay", 0xF015, 0xF0FF⟩ (by decide) rfl ((formatXI_and_family_byte _ _ _).trans (by decide))

theorem setSound (x : RegIdx) : Statement (.setSound x) :=
  of_row ⟨"set-sound", 0xF018, 0xF0FF⟩ (by decide) rfl ((formatXI_and_family_byte _ _ _).trans (by decide))

theorem addI (x : RegIdx) : Statement (.addI x) :=
  of_row ⟨"add-I", 0xF01E, 0xF0FF⟩ (by decide) rfl ((formatXI_and_family_byte _ _ _).trans (by decide))

theorem fontAddr (x : RegIdx) : Statement (.fontAddr x) :=
  of_row ⟨"font-addr", 0xF029, 0xF0FF⟩ (by decide) rfl ((formatXI_and_family_byte _ _ _).trans (by decide))

theorem bcd (x : RegIdx) : Statement (.bcd x) :=
  of_row ⟨"bcd", 0xF033, 0xF0FF⟩ (by decide) rfl ((formatXI_and_family_byte _ _ _).trans (by decide))

theorem storeRegs (x : RegIdx) : Statement (.storeRegs x) :=
  of_row ⟨"store-regs", 0xF055, 0xF0FF⟩ (by decide) rfl ((formatXI_and_family_byte _ _ _).trans (by decide))

theorem loadRegs (x : RegIdx) : Statement (.loadRegs x) :=
  of_row ⟨"load-regs", 0xF065, 0xF0FF⟩ (by decide) rfl ((formatXI_and_family_byte _ _ _).trans (by decide))

end Sys2Proof.Laws.EncodesInRow
end

