-- ==== Sys2Proof/Laws/Step.lean ====
section
/-! SUPPORT. What one step can do, once (40_cycle_driver.md R100): later proofs cite these and never unfold the driver. -/

namespace Sys2Proof.Machine

/-- What fetch, decode and execute can answer: the fetch fault, the decode fault, or what the decoded instruction
answers. -/
theorem runFetched_cases {s u : State} (h : runFetched s = .next u) :
    (0xFFE < s.pc.toNat ∧ u = s.latched .fetchOutOfBounds s.pc) ∨
    (s.pc.toNat ≤ 0xFFE ∧ decodeWord s.fetchWord = none ∧ u = s.latched .unknownOpcode s.fetchWord) ∨
    (s.pc.toNat ≤ 0xFFE ∧ ∃ i, decodeWord s.fetchWord = some i ∧ exec i s = .next u) := by
  unfold runFetched at h
  split at h
  · next hf =>
    have hf := s.fetchFits_iff.mp hf
    split at h
    · next i hi => exact .inr (.inr ⟨hf, i, hi, h⟩)
    · next hn => exact .inr (.inl ⟨hf, hn, (raiseFault_next s _ _).mp h⟩)
  · next hf =>
    have hf : ¬ s.pc.toNat ≤ 0xFFE := fun hle => hf (s.fetchFits_iff.mpr hle)
    exact .inl ⟨by omega, (raiseFault_next s _ _).mp h⟩

/-- What a step can do: nothing on a faulted core; otherwise what fetch, decode and execute answer on the sampled
inputs, with the model's own fields moved on. -/
theorem step_cases {s t : State} (h : step s = .next t) :
    (s.fault ≠ .noFault ∧ t = s) ∨
    (s.fault = .noFault ∧ ∃ u, runFetched s.sampleKeys = .next u ∧ t = u.afterStep) := by
  unfold step cycle at h
  split at h
  · next hf =>
    refine .inr ⟨hf, ?_⟩
    cases hr : runFetched s.sampleKeys with
    | next u => rw [hr] at h; simp only [finishStep, Host.Outcome.next.injEq] at h; exact ⟨u, rfl, h.symm⟩
    | fault r => exact nomatch r
    | refused r => rw [hr] at h; simp [finishStep] at h
  · next hf => exact .inl ⟨hf, by simpa [eq_comm] using h⟩

end Sys2Proof.Machine
end

