-- ==== Sys2Proof/Tests/Slice0.lean ====
section
/-! SUPPORT. Tests on fixed values: the well-formedness smoke, one written-out word per constructor, at most two vectors of
95_test_vectors.md per instruction (the vector's name stands in each docstring), and a witness for the hypotheses of every
statement that has some. Expected values are the spec's. -/

namespace Sys2Proof.Tests

open Sys2Proof Sys2Proof.Machine

/-! ### Helpers -/

/-- The state after reset with some registers given. -/
def regs (l : List (RegIdx × Byte)) : State := l.foldl (fun s p => s.setReg p.1 p.2) State.reset

/-- A state with PC moved. -/
def at_ (pc : Word) (s : State) : State := { s with pc := pc }

/-- A state with I given. -/
def index (i : Word) (s : State) : State := { s with i := i }

/-- A state with bytes in memory. -/
def bytes (a : Nat) (bs : List Byte) (s : State) : State := s.writeBytes a bs

/-- A state with an edge policy. -/
def policy (p : Config.EdgePolicy) (s : State) : State := { s with edgePolicy := p }

/-- A state with both timers given. -/
def timers (dt st : Byte) (s : State) : State := { s with dt := dt, st := st }

/-- A state whose stack has depth `sp`. -/
def depth (sp : Fin 17) (s : State) : State := { s with sp := sp }

/-- The next state of an outcome (no outcome of these tests is another). -/
def nextOf : StepOutcome → State
  | .next t => t
  | .fault _ => State.reset
  | .refused _ => State.reset

/-- One step on a state whose next word is `w`. -/
def stepOn (w : Word) (s : State) : State := nextOf (step (s.placeWord w))

/-- The latch. -/
def latch (s : State) : FaultCode × Word := (s.fault, s.faultInfo)

/-- The set cells, by row and column. -/
def cells (s : State) : List (Nat × Nat) :=
  (List.range 32).flatMap fun y =>
    if s.bm.getD y 0 = 0 then [] else ((List.range 64).filter fun x => s.pixel x y).map fun x => (x, y)

/-! ### WellFormed (30_encoding.md R72) -/

/-- A row count of 16 does not fit the 4-bit field. -/
theorem test_wellFormed_refuses_draw_16 : (Instr.draw 0 0 16).wellFormed = false := by decide

/-- A row count of 15 fits. -/
theorem test_wellFormed_accepts_draw_15 : (Instr.draw 0 0 15).wellFormed = true := by decide

/-! ### Decoding: words written out bit by bit from the table of 30_encoding.md R76 -/

/-- Families 0, 1, 2. -/
theorem test_decode_families_0_to_2 :
    decodeWord 0b0000000011100000 = some .clearScreen ∧ decodeWord 0b0000000011101110 = some .ret ∧
    decodeWord 0b0001001000110100 = some (.jump 0x234) ∧ decodeWord 0b0010001000010000 = some (.call 0x210) := by decide

/-- Families 3, 4, 5, 9; the low nibble of 5 and 9 is ignored. -/
theorem test_decode_skips :
    decodeWord 0b0011001100010010 = some (.skipEqImm 3 0x12) ∧ decodeWord 0b0100001100010011 = some (.skipNeImm 3 0x13) ∧
    decodeWord 0b0101000100100111 = some (.skipEqReg 1 2) ∧ decodeWord 0b1001000100101111 = some (.skipNeReg 1 2) := by decide

/-- Families 6 and 7. -/
theorem test_decode_immediates :
    decodeWord 0b0110101011111111 = some (.setImm 0xA 0xFF) ∧ decodeWord 0b0111001000100000 = some (.addImm 2 0x20) := by
  decide

/-- Family 8; Y of `shr` and `shl` is ignored. -/
theorem test_decode_family_8 :
    decodeWord 0b1000000101010000 = some (.setReg 1 5) ∧ decodeWord 0b1000000100100001 = some (.orReg 1 2) ∧
    decodeWord 0b1000000100100010 = some (.andReg 1 2) ∧ decodeWord 0b1000000100100011 = some (.xorReg 1 2) ∧
    decodeWord 0b1000000100100100 = some (.addReg 1 2) ∧ decodeWord 0b1000000100100101 = some (.subReg 1 2) ∧
    decodeWord 0b1000010001010110 = some (.shr 4) ∧ decodeWord 0b1000000100100111 = some (.subn 1 2) ∧
    decodeWord 0b1000010001111110 = some (.shl 4) := by decide

/-- Families A to D. -/
theorem test_decode_families_a_to_d :
    decodeWord 0b1010001100000000 = some (.setI 0x300) ∧ decodeWord 0b1011010100000000 = some (.jumpOffset 0x500) ∧
    decodeWord 0b1100001111110000 = some (.rand 3 0xF0) ∧ decodeWord 0b1101111100010101 = some (.draw 0xF 1 5) := by decide

/-- Family E. -/
theorem test_decode_family_e :
    decodeWord 0b1110000110011110 = some (.skipKeyPressed 1) ∧
    decodeWord 0b1110000110100001 = some (.skipKeyNotPressed 1) := by decide

/-- Family F. -/
theorem test_decode_family_f :
    decodeWord 0b1111000100000111 = some (.loadDelay 1) ∧ decodeWord 0b1111001000001010 = some (.waitKey 2) ∧
    decodeWord 0b1111000000010101 = some (.setDelay 0) ∧ decodeWord 0b1111000000011000 = some (.setSound 0) ∧
    decodeWord 0b1111001000011110 = some (.addI 2) ∧ decodeWord 0b1111001100101001 = some (.fontAddr 3) ∧
    decodeWord 0b1111000000110011 = some (.bcd 0) ∧ decodeWord 0b1111111101010101 = some (.storeRegs 0xF) ∧
    decodeWord 0b1111001001100101 = some (.loadRegs 2) := by decide

/-- F1 to F9: words that match no row. -/
theorem test_decode_rejects :
    decodeWord 0x0000 = none ∧ decodeWord 0x00E1 = none ∧ decodeWord 0x01E0 = none ∧ decodeWord 0x0123 = none ∧
    decodeWord 0x8128 = none ∧ decodeWord 0x812F = none ∧ decodeWord 0xE19F = none ∧ decodeWord 0xF100 = none ∧
    decodeWord 0xF1FF = none := by decide

/-- The decoder on bytes: big-endian, one word, the rest left; too few bytes rejected by name. -/
theorem test_decode_bytes :
    decode [0x12, 0x0A, 0xFF] = .instr (.jump 0x20A) [0xFF] ∧ decode [0x00, 0xE1] = .unknownOpcode 0x00E1 ∧
    decode [0x12] = .truncated ∧ decode [] = .truncated := by decide

/-- The host's word: the fetched bytes are the word's, the high byte first (20_memory.md R53). -/
theorem test_withFetchWord :
    decodeTableWord 16 0x120A = some (.jump 0x20A) ∧
    (State.reset.withFetchWord 16 0x120A).readByte 0x200 = 0x12 ∧
    (State.reset.withFetchWord 16 0x120A).readByte 0x201 = 0x0A ∧
    (nextOf (step (State.reset.withFetchWord 16 0x120A))).pc = 0x20A := by decide

/-! ### Control flow (vectors C) -/

/-- C2. -/
theorem test_return :
    let t := stepOn 0x00EE { (at_ 0x214 State.reset) with sp := 1, stack := State.reset.stack.set 0 0x204 }
    t.sp = 0 ∧ t.pc = 0x206 ∧ t.stack[0] = 0x204 := by decide

/-- C3, F13. -/
theorem test_return_underflow :
    let t := stepOn 0x00EE (timers 5 0 (at_ 0x300 State.reset))
    latch t = (.stackUnderflow, 0x00EE) ∧ t.pc = 0x300 ∧ t.dt = 5 := by decide

/-- C7. -/
theorem test_jump : let t := stepOn 0x120A (timers 5 0 (at_ 0x20A State.reset)); t.pc = 0x20A ∧ t.dt = 4 := by decide

/-- C5. -/
theorem test_call :
    let t := stepOn 0x2400 (depth 15 (at_ 0x300 State.reset))
    t.stack[15] = 0x300 ∧ t.sp = 16 ∧ t.pc = 0x400 := by decide

/-- C4. -/
theorem test_call_overflow :
    let t := stepOn 0x2400 (depth 16 (at_ 0x300 State.reset))
    latch t = (.stackOverflow, 0x2400) ∧ t.sp = 16 := by decide

/-- C8, C9. -/
theorem test_skip_eq_imm :
    (stepOn 0x3312 (regs [(3, 0x12)])).pc = 0x204 ∧ (stepOn 0x3312 (regs [(3, 0x13)])).pc = 0x202 := by decide

/-- C10, C11. -/
theorem test_skip_ne_imm :
    (stepOn 0x4312 (regs [(3, 0x12)])).pc = 0x202 ∧ (stepOn 0x4313 (regs [(3, 0x12)])).pc = 0x204 := by decide

/-- C14, C15. -/
theorem test_skip_eq_reg :
    (stepOn 0x5127 (at_ 0x300 (regs [(1, 7), (2, 7)]))).pc = 0x304 ∧
    (stepOn 0x5120 (at_ 0x300 (regs [(1, 7), (2, 8)]))).pc = 0x302 := by decide

/-- C17, C18. -/
theorem test_skip_ne_reg :
    (stepOn 0x9120 (at_ 0x300 (regs [(1, 7), (2, 8)]))).pc = 0x304 ∧
    (stepOn 0x944F (at_ 0x300 (regs [(4, 9)]))).pc = 0x302 := by decide

/-- C21: the sum is not masked. -/
theorem test_jump_offset_unmasked : (stepOn 0xBFFF (regs [(0, 0xFF)])).pc = 0x10FE := by decide

/-- C22: V0 is added, not V5. -/
theorem test_jump_offset_adds_v0 : (stepOn 0xB500 (regs [(0, 0x01), (5, 0x10)])).pc = 0x501 := by decide

/-! ### Register and ALU instructions (vectors A) -/

/-- A2. -/
theorem test_set_imm : let t := stepOn 0x6F00 (regs [(0xF, 0x55)]); t.reg 0xF = 0 ∧ t.pc = 0x202 := by decide

/-- A4. -/
theorem test_add_imm :
    let t := stepOn 0x7001 (regs [(0, 0xFF), (0xF, 0x55)])
    t.reg 0 = 0 ∧ t.reg 0xF = 0x55 := by decide

/-- A6. -/
theorem test_set_reg : let t := stepOn 0x8150 (regs [(5, 0x3C)]); t.reg 1 = 0x3C ∧ t.reg 5 = 0x3C := by decide

/-- A7. -/
theorem test_or :
    let t := stepOn 0x8121 (regs [(1, 0x0F), (2, 0xF0), (0xF, 0x55)])
    t.reg 1 = 0xFF ∧ t.reg 0xF = 0x55 := by decide

/-- A8. -/
theorem test_and : (stepOn 0x8122 (regs [(1, 0x3C), (2, 0x0F)])).reg 1 = 0x0C := by decide

/-- A9. -/
theorem test_xor : (stepOn 0x8123 (regs [(1, 0x3C), (2, 0x0F)])).reg 1 = 0x33 := by decide

/-- S2. -/
theorem test_add_reg :
    let t := stepOn 0x8124 (regs [(1, 250), (2, 10)])
    t.reg 1 = 4 ∧ t.reg 0xF = 1 := by decide

/-- A16, A17. -/
theorem test_add_reg_vf :
    (stepOn 0x8F14 (regs [(0xF, 0xF0), (1, 0x20)])).reg 0xF = 0x21 ∧
    (stepOn 0x81F4 (regs [(1, 0xFF), (0xF, 0x02)])).reg 1 = 0x00 := by decide

/-- S3. -/
theorem test_sub_reg :
    let t := stepOn 0x8125 (regs [(1, 5), (2, 10)])
    t.reg 1 = 251 ∧ t.reg 0xF = 0 := by decide

/-- A23, A24. -/
theorem test_sub_reg_vf :
    (stepOn 0x8F15 (regs [(0xF, 0x10), (1, 0x20)])).reg 0xF = 0xE0 ∧
    (stepOn 0x81F5 (regs [(1, 0x05), (0xF, 0x10)])).reg 1 = 0x05 := by decide

/-- A29. -/
theorem test_shr :
    let t := stepOn 0x8456 (regs [(4, 0xFF), (5, 0x00)])
    t.reg 4 = 0x7F ∧ t.reg 0xF = 1 := by decide

/-- A30. -/
theorem test_shr_vf : (stepOn 0x8F06 (regs [(0xF, 0x03)])).reg 0xF = 0 := by decide

/-- A31. -/
theorem test_subn :
    let t := stepOn 0x8127 (regs [(1, 10), (2, 5)])
    t.reg 1 = 251 ∧ t.reg 0xF = 0 := by decide

/-- A34, A35. -/
theorem test_subn_vf :
    (stepOn 0x8F17 (regs [(0xF, 0x10), (1, 0x20)])).reg 0xF = 0x1F ∧
    (stepOn 0x81F7 (regs [(1, 0x05), (0xF, 0x10)])).reg 1 = 0xFC := by decide

/-- A36. -/
theorem test_shl : let t := stepOn 0x840E (regs [(4, 0x81)]); t.reg 4 = 0x02 ∧ t.reg 0xF = 1 := by decide

/-- A39. -/
theorem test_shl_vf : (stepOn 0x8F0E (regs [(0xF, 0x80)])).reg 0xF = 0x02 := by decide

/-- A41. -/
theorem test_rand : (stepOn 0xC00F { State.reset with inputs := [⟨0, 0xA7⟩] }).reg 0 = 0x07 := by decide

/-- A43: without a byte of the host's the draw is free, and the mask still holds. -/
theorem test_rand_free : (stepOn 0xC000 (regs [(0, 9)])).reg 0 = 0 := by
  show Config.randSource 0 &&& 0 = 0
  exact BitVec.and_zero

/-! ### Index register and memory (vectors M) -/

/-- M2. -/
theorem test_set_i : (stepOn 0xAFFF State.reset).i = 0xFFF := by decide

/-- M4, M7. -/
theorem test_add_i :
    let t := stepOn 0xF21E (index 0xFF8 (regs [(2, 0x10)]))
    let u := stepOn 0xF21E (index 0xFFFF (regs [(2, 0x02)]))
    t.i = 0x1008 ∧ t.reg 0xF = 1 ∧ u.i = 0x0001 ∧ u.reg 0xF = 0 := by decide

/-- M8. -/
theorem test_add_i_vf :
    let t := stepOn 0xFF1E (index 0xFFE (regs [(0xF, 0x05)]))
    t.reg 0xF = 1 ∧ t.i = 0xFFF := by decide

/-- M11, M13. -/
theorem test_font_addr :
    (stepOn 0xF329 (regs [(3, 0x0F)])).i = 0x04B ∧ (stepOn 0xF329 (regs [(3, 0xFF)])).i = 0x4FB := by decide

/-- M18. -/
theorem test_bcd :
    (stepOn 0xF033 (index 0xFFD (regs [(0, 42)]))).mem.drop 2 = [(0xFFE, 4), (0xFFF, 2)] := by decide

/-- M19. -/
theorem test_bcd_out_of_bounds :
    let t := stepOn 0xF033 (index 0xFFE (regs [(0, 42)]))
    latch t = (.memoryOutOfBounds, 0xF033) ∧ t.readByte 0xFFE = 0 := by decide

/-- M22. -/
theorem test_store_regs :
    let t := stepOn 0xF155 (index 0x300 (regs [(0, 1), (1, 2), (2, 3)]))
    t.readByte 0x300 = 1 ∧ t.readByte 0x301 = 2 ∧ t.readByte 0x302 = 0 ∧ t.i = 0x302 := by decide

/-- M24. -/
theorem test_store_regs_out_of_bounds :
    let t := stepOn 0xFF55 (index 0xFF1 (regs [(0, 1)]))
    latch t = (.memoryOutOfBounds, 0xFF55) ∧ t.i = 0xFF1 ∧ t.readByte 0xFF1 = 0 := by decide

/-- M27: the font read back. -/
theorem test_load_regs :
    let t := stepOn 0xF465 (regs [(5, 9)])
    [t.reg 0, t.reg 1, t.reg 2, t.reg 3, t.reg 4] = [0xF0, 0x90, 0x90, 0x90, 0xF0] ∧ t.reg 5 = 9 ∧ t.i = 5 := by decide

/-- M28. -/
theorem test_load_regs_out_of_bounds :
    let t := stepOn 0xF065 (index 0x1000 (regs [(0, 7)]))
    latch t = (.memoryOutOfBounds, 0xF065) ∧ t.reg 0 = 7 := by decide

/-! ### The bitmap (vectors P) -/

/-- P1. -/
theorem test_clear_screen :
    let t := stepOn 0x00E0 ((regs [(0xF, 5)]).togglePixel 3 4)
    cells t = [] ∧ t.reg 0xF = 5 := by decide

/-- P3: glyph 0 at the origin. -/
theorem test_draw_glyph :
    let t := stepOn 0xD015 State.reset
    cells t = [(0, 0), (1, 0), (2, 0), (3, 0), (0, 1), (3, 1), (0, 2), (3, 2), (0, 3), (3, 3), (0, 4), (1, 4), (2, 4),
      (3, 4)] ∧ t.reg 0xF = 0 := by decide +kernel

/-- P7, P8, P9: one sprite over the right edge under the three policies. -/
theorem test_draw_edge :
    let s := bytes 0x300 [0xF0] (index 0x300 (regs [(0, 62)]))
    latch (stepOn 0xD011 s) = (.drawOutOfBounds, 0xD011) ∧
    cells (stepOn 0xD011 (policy .wrap s)) = [(0, 0), (1, 0), (62, 0), (63, 0)] ∧
    cells (stepOn 0xD011 (policy .clip s)) = [(62, 0), (63, 0)] := by decide

/-! ### Timers and input (vectors T) -/

/-- T14, T13. -/
theorem test_skip_key_pressed :
    (stepOn 0xE19E { regs [(1, 5)] with key := 0x0010 }).pc = 0x202 ∧
    (stepOn 0xE19E { regs [(1, 5)] with key := 0x0020 }).pc = 0x204 := by decide

/-- T15. -/
theorem test_skip_key_pressed_out_of_range :
    latch (stepOn 0xE19E (regs [(1, 0x10)])) = (.keyIndexOutOfRange, 0xE19E) := by decide

/-- T16, T17. -/
theorem test_skip_key_not_pressed :
    (stepOn 0xE1A1 (regs [(1, 5)])).pc = 0x204 ∧
    (stepOn 0xE1A1 { regs [(1, 5)] with key := 0x0020 }).pc = 0x202 := by decide

/-- T18. -/
theorem test_skip_key_not_pressed_out_of_range :
    latch (stepOn 0xE1A1 (regs [(1, 0xFF)])) = (.keyIndexOutOfRange, 0xE1A1) := by decide

/-- T5. -/
theorem test_load_delay : let t := stepOn 0xF107 (timers 2 0 State.reset); t.reg 1 = 2 ∧ t.dt = 1 := by decide

/-- T9. -/
theorem test_wait_key_stalls :
    let t := stepOn 0xF20A (timers 3 3 State.reset)
    t.pc = 0x200 ∧ t.dt = 3 ∧ t.st = 3 ∧ t.status = .stalled := by decide

/-- T10: the keys of the host's next input. -/
theorem test_wait_key_takes_the_least :
    let t := stepOn 0xF20A { timers 3 3 State.reset with inputs := [⟨0x0280, 0⟩] }
    t.reg 2 = 7 ∧ t.pc = 0x202 ∧ t.dt = 2 := by decide

/-- T1, T2, T3. -/
theorem test_set_delay :
    (stepOn 0xF015 (regs [(0, 3)])).dt = 2 ∧ (stepOn 0xF015 (regs [(0, 1)])).dt = 0 ∧
    (stepOn 0xF015 (regs [(0, 0)])).dt = 0 := by decide

/-- T4. -/
theorem test_set_sound : (stepOn 0xF018 (regs [(0, 1)])).st = 0 ∧ (stepOn 0xF018 (regs [(0, 3)])).st = 2 := by decide

/-! ### Fetch, decode and reset (vectors F) -/

/-- F11. -/
theorem test_fetch_out_of_bounds :
    latch (nextOf (step (at_ 0xFFF State.reset))) = (.fetchOutOfBounds, 0x0FFF) := by decide

/-- F17: reset, no load. -/
theorem test_first_step_without_load :
    let t := nextOf (step State.reset)
    latch t = (.unknownOpcode, 0x0000) ∧ t.pc = 0x200 := by decide

/-- F18, the font: the reset port puts back a byte a program overwrote. -/
theorem test_port_reset_restores_font :
    let s := bytes 0 [0xAA] State.reset
    s.readByte 0 = 0xAA ∧ s.portReset.readByte 0 = 0xF0 := by decide

/-- F16. -/
theorem test_load_too_long :
    State.reset.portLoad (List.replicate 3585 0x12) = (.loadError, State.reset) := by
  simp only [State.portLoad, List.length_replicate]
  rfl

/-! ### Witnesses: for every statement with hypotheses, a state and operands that meet them together, one for each clause
at the boundary of its range -/

/-- A state whose keys are given. -/
def keyed (k : Word) (s : State) : State := { s with key := k }

/-- EncodedInstructionDecodesToItself: the greatest row count. -/
theorem witness_wellFormed : (Instr.draw 0xF 0xF 15).wellFormed = true := by decide

/-- DecodedWordIsItsEncodingButForIgnoredBits: a word with an ignored bit set. -/
theorem witness_decoded_word : decodeWord 0x5127 = some (.skipEqReg 1 2) := by decide

/-- StepRunsTheInstructionAtPc: at the last fetchable address. -/
theorem witness_step_runs :
    let s := (at_ 0xFFE State.reset).placeWord 0x6001
    s.fault = .noFault ∧ s.pc.toNat ≤ 0xFFE ∧
    decodeWord (s.readByte s.pc.toNat ++ s.readByte (s.pc.toNat + 1)) = some (.setImm 0 1) := by decide

/-- FetchAndDecodeFaultsLatch: the first address that cannot be fetched, and an unknown word at the last that can. -/
theorem witness_fetch_and_decode_faults :
    let s := at_ 0xFFF State.reset
    let t := at_ 0xFFE State.reset
    s.fault = .noFault ∧ 0xFFE < s.pc.toNat ∧ t.fault = .noFault ∧ t.pc.toNat ≤ 0xFFE ∧
    decodeWord (t.readByte t.pc.toNat ++ t.readByte (t.pc.toNat + 1)) = none := by decide

/-- FaultedCoreStaysAsItIs. -/
theorem witness_faulted : (nextOf (step State.reset)).fault ≠ .noFault := by decide

/-- LatchIdentifiesTheCause: a step that latches the fetch fault, and one that latches an instruction's own. -/
theorem witness_latches :
    let s := at_ 0xFFF State.reset
    let t := State.reset.placeWord 0x00EE
    (s.fault = .noFault ∧ step s = .next (nextOf (step s)) ∧ (nextOf (step s)).fault = .fetchOutOfBounds) ∧
    (t.fault = .noFault ∧ step t = .next (nextOf (step t)) ∧ (nextOf (step t)).fault = .stackUnderflow) :=
  ⟨⟨rfl, rfl, rfl⟩, rfl, rfl, rfl⟩

/-- TimersDecayOncePerCompletedInstruction, EveryInstructionEndsInOneOfThreeWays, NoInstructionWritesTheHostsSide,
PcMovesByTwoUnlessTheRuleSaysOtherwise: an instruction that completes and sets no PC, one that stalls, one that faults. -/
theorem witness_endings :
    (exec (.setDelay 0) State.reset = .next (nextOf (exec (.setDelay 0) State.reset)) ∧
      (nextOf (exec (.setDelay 0) State.reset)).status = .ok ∧ (Instr.setDelay 0).setsPc = false) ∧
    (exec (.setSound 0) State.reset = .next (nextOf (exec (.setSound 0) State.reset)) ∧
      (nextOf (exec (.setSound 0) State.reset)).status = .ok ∧ (Instr.setSound 0).setsPc = false) ∧
    (exec (.waitKey 0) State.reset = .next (nextOf (exec (.waitKey 0) State.reset)) ∧
      (nextOf (exec (.waitKey 0) State.reset)).status = .stalled) ∧
    (exec .ret State.reset = .next (nextOf (exec .ret State.reset)) ∧
      (nextOf (exec .ret State.reset)).status = .fault) :=
  ⟨⟨rfl, rfl, rfl⟩, ⟨rfl, rfl, rfl⟩, ⟨rfl, rfl⟩, rfl, rfl⟩

/-- OnlyWaitKeyWithNoKeyStalls: no key, a stalled instruction, a stalled step. -/
theorem witness_stalls :
    let s := State.reset.placeWord 0xF20A
    s.key = 0 ∧ s.fault = .noFault ∧ step s = .next (nextOf (step s)) ∧ (nextOf (step s)).status = .stalled :=
  ⟨rfl, rfl, rfl, rfl⟩

/-- OnlyRandReadsTheRandomByte: an instruction that is not `rand`. -/
theorem witness_not_rand :
    (∀ x nn, Instr.clearScreen ≠ .rand x nn) ∧
    exec .clearScreen State.reset = .next (nextOf (exec .clearScreen State.reset)) :=
  ⟨by decide, rfl⟩

/-- OnlyTheTableWritesRegisters: the register above the last one `load-regs` writes, and the one a flag-writing
instruction leaves. -/
theorem witness_unwritten_registers :
    (exec (.loadRegs 0xE) State.reset = .next (nextOf (exec (.loadRegs 0xE) State.reset)) ∧
      (Instr.loadRegs 0xE).writesReg 0xF = false) ∧
    (exec (.addReg 1 2) State.reset = .next (nextOf (exec (.addReg 1 2) State.reset)) ∧
      (Instr.addReg 1 2).writesReg 2 = false) :=
  ⟨⟨rfl, rfl⟩, rfl, rfl⟩

/-- OnlyTheStoredBytesChange: the bytes beside the stored ones, and any byte for an instruction that stores nothing. -/
theorem witness_unstored_bytes :
    let s := index 0x300 State.reset
    (exec (.bcd 0) s = .next (nextOf (exec (.bcd 0) s)) ∧ (Instr.bcd 0).storesTo s 0x2FF = false ∧
      (Instr.bcd 0).storesTo s 0x302 = true ∧ (Instr.bcd 0).storesTo s 0x303 = false) ∧
    (exec (.storeRegs 0xF) s = .next (nextOf (exec (.storeRegs 0xF) s)) ∧
      (Instr.storeRegs 0xF).storesTo s 0x30F = true ∧ (Instr.storeRegs 0xF).storesTo s 0x310 = false) ∧
    (exec (.loadRegs 0xF) s = .next (nextOf (exec (.loadRegs 0xF) s)) ∧
      (Instr.loadRegs 0xF).storesTo s 0x300 = false) :=
  ⟨⟨rfl, by decide⟩, ⟨rfl, by decide⟩, rfl, by decide⟩

/-- OnlyCallAndReturnMoveTheStack, OnlyTheNamedInstructionsWriteIAndTheBitmap: an instruction that is none of those, and a
`call` with an entry it does not write. -/
theorem witness_stack_index_bitmap :
    (exec (.jump 0) State.reset = .next (nextOf (exec (.jump 0) State.reset)) ∧
      (∀ nnn, Instr.jump 0 ≠ .call nnn) ∧ Instr.jump 0 ≠ .ret ∧ (Instr.jump 0).writesIndex = false ∧
      Instr.jump 0 ≠ .clearScreen ∧ (∀ x y n, Instr.jump 0 ≠ .draw x y n)) ∧
    (exec (.call 0) State.reset = .next (nextOf (exec (.call 0) State.reset)) ∧ (1 : Fin 16).val ≠ State.reset.sp.val) :=
  ⟨⟨rfl, by decide, by decide, rfl, by decide, fun _ _ _ => nofun⟩, rfl, by decide⟩

/-- ReturnPopsAndGoesPastTheCall, CallPushesItsOwnAddress: every depth has its clause; 0, 1, 15 and 16, and the greatest
entry a `call` can push. -/
theorem witness_depths :
    State.reset.sp = 0 ∧ (depth 1 State.reset).sp.val = (0 : Fin 16).val + 1 ∧
    (depth 16 State.reset).sp.val = (15 : Fin 16).val + 1 ∧ State.reset.sp.val = (0 : Fin 16).val ∧
    (depth 15 State.reset).sp.val = (15 : Fin 16).val ∧ (depth 16 State.reset).sp = 16 ∧
    (({ depth 1 State.reset with stack := State.reset.stack.set 0 0xFFE } : State).stack[0]).toNat ≤ 0xFFE := by decide

/-- ReturnUndoesCall: the deepest call, and a state in which the `return` finds its entry. -/
theorem witness_call_and_return :
    let s := depth 15 State.reset
    let t := nextOf (exec (.call 0x300) s)
    s.sp.val = (15 : Fin 16).val ∧ exec (.call 0x300) s = .next t ∧ t.sp = t.sp ∧
    t.stack[(15 : Fin 16).val] = t.stack[(15 : Fin 16).val] :=
  ⟨rfl, rfl, rfl, rfl⟩

/-- RandMasksTheStepsByte: with and without an input of the host's. -/
theorem witness_rand_inputs :
    ({ State.reset with inputs := [⟨0, 0xFF⟩] } : State).inputs = [⟨0, 0xFF⟩] ∧ State.reset.inputs = [] := by decide

/-- BcdStoresThreeDigits, StoreRegsStoresTheFirstRegisters, LoadRegsLoadsTheFirstRegisters: the last range that fits and the
first that does not. -/
theorem witness_memory_ranges :
    (index 0xFFD State.reset).i.toNat + 2 ≤ 0xFFF ∧ 0xFFF < (index 0xFFE State.reset).i.toNat + 2 ∧
    (index 0xFF0 State.reset).i.toNat + (0xF : RegIdx).toNat ≤ 0xFFF ∧
    0xFFF < (index 0xFF1 State.reset).i.toNat + (0xF : RegIdx).toNat ∧
    (index 0xFFF State.reset).i.toNat + (0x0 : RegIdx).toNat ≤ 0xFFF ∧
    0xFFF < (index 0x1000 State.reset).i.toNat + (0x0 : RegIdx).toNat := by decide

/-- DrawInvertsExactlyTheSpritesCells, DrawLatchesMemoryBeforeEdge: no row, the last row that fits and the first that does
not; the last column that fits under `fault` and the first that does not; a policy that is not `fault`. -/
theorem witness_draws :
    let s (x : Byte) := bytes 0xFFF [0xF0] (index 0xFFF (regs [(0, x)]))
    ((0 : Nibble) = 0 ∨ (s 0).i.toNat + (0 : Nibble).toNat - 1 ≤ 0xFFF) ∧
    ((1 : Nibble) = 0 ∨ (s 60).i.toNat + (1 : Nibble).toNat - 1 ≤ 0xFFF) ∧
    (s 60).edgePolicy = .fault ∧ (s 60).spriteOffGrid 0 1 (1 : Nibble).toNat = false ∧
    (s 61).edgePolicy = .fault ∧ (s 61).spriteOffGrid 0 1 (1 : Nibble).toNat = true ∧
    (policy .wrap (s 61)).edgePolicy ≠ .fault ∧
    ((2 : Nibble) ≠ 0 ∧ 0xFFF < (s 0).i.toNat + (2 : Nibble).toNat - 1) := by decide

/-- DrawingTwiceRestoresTheBitmap: glyph 0 drawn at the origin, and the state after it. -/
theorem witness_draw_twice :
    let s := State.reset
    let t := nextOf (exec (.draw 0 1 (5 : Nibble).toNat) s)
    exec (.draw 0 1 (5 : Nibble).toNat) s = .next t ∧ t.status = .ok ∧ t.reg 0 = s.reg 0 ∧ t.reg 1 = s.reg 1 ∧ t.i = s.i ∧
    t.mem = s.mem ∧ t.edgePolicy = s.edgePolicy :=
  ⟨rfl, by decide +kernel⟩

/-- DrawOnClearBitmapSetsAsManyCellsAsBits: glyph 0 on the bitmap after reset. -/
theorem witness_draw_on_clear :
    (∀ cx cy : Nat, State.reset.pixel cx cy = false) ∧
    ((5 : Nibble) = 0 ∨ State.reset.i.toNat + (5 : Nibble).toNat - 1 ≤ 0xFFF) ∧
    State.reset.spriteOffGrid 0 1 (5 : Nibble).toNat = false := by
  refine ⟨fun cx cy => ?_, by decide, by decide⟩
  by_cases h : cy < 32 <;> simp [State.pixel, State.reset, Vector.getD, h]

/-- KeySkipsReadTheLevel: the last key and the first value that names none. -/
theorem witness_key_indexes : ((regs [(1, 0x0F)]).reg 1).toNat ≤ 0xF ∧ 0xF < ((regs [(1, 0x10)]).reg 1).toNat := by decide

/-- WaitKeyTakesTheLeastKey: key 0 among others, key 15 alone, no key. -/
theorem witness_keys :
    ((keyed 0x8001 State.reset).key.getLsbD (0 : Fin 16).val = true ∧
      ∀ j : Fin 16, j < 0 → (keyed 0x8001 State.reset).key.getLsbD j.val = false) ∧
    ((keyed 0x8000 State.reset).key.getLsbD (15 : Fin 16).val = true ∧
      ∀ j : Fin 16, j < 15 → (keyed 0x8000 State.reset).key.getLsbD j.val = false) ∧
    (∀ k : Fin 16, State.reset.key.getLsbD k.val = false) := by decide

/-- TimersCountCompletedSteps: one step that completes and writes no timer. -/
theorem witness_counted_steps :
    let s := (timers 5 1 State.reset).placeWord 0x6000
    Host.Core.run Sys2Proof.core 1 s = .next (nextOf (step s)) ∧
    ∀ (j : Nat) (u : State), j < 1 → Host.Core.run Sys2Proof.core j s = .next u →
      u.fault = .noFault ∧ (∀ v, step u = .next v → v.status = .ok) ∧
      (∀ x, decodeWord u.fetchWord ≠ some (.setDelay x) ∧ decodeWord u.fetchWord ≠ some (.setSound x)) := by
  refine ⟨rfl, fun j u hj hu => ?_⟩
  obtain rfl : j = 0 := by omega
  obtain rfl := Host.Outcome.next.inj hu
  refine ⟨rfl, fun v hv => ?_, by decide⟩
  obtain rfl := Host.Outcome.next.inj hv
  rfl

/-- ResetLeavesTheStatedValues, FontAtReset: the reset port in a faulted state. -/
theorem witness_port_reset :
    let s := nextOf (step State.reset)
    s.fault ≠ .noFault ∧ (s.portReset = State.reset ∨ s.portReset = s.portReset) := ⟨by decide, .inr rfl⟩

/-- LoadCopiesTheImageOrErrs: the longest image, one byte more, and a load after a load. -/
theorem witness_images :
    (State.reset.phase = .fresh ∧ (List.replicate 3584 (0x12 : Byte)).length ≤ 3584) ∧
    3584 < (List.replicate 3585 (0x12 : Byte)).length ∧ (State.reset.portLoad []).2.phase ≠ .fresh := by
  simp only [List.length_replicate]
  decide

/-- FirstStepRunsTheImagesFirstWord: the longest image. -/
theorem witness_first_word :
    (List.replicate 3582 (0x00 : Byte)).length ≤ 3582 ∧ decodeWord ((0x12 : Byte) ++ (0x34 : Byte)) = some (.jump 0x234) := by
  simp only [List.length_replicate]
  decide

/-- RandPortSuppliesTheByte: at the last fetchable address. -/
theorem witness_rand_port :
    let s := (at_ 0xFFE State.reset).placeWord 0xC00F
    s.fault = .noFault ∧ s.pc.toNat ≤ 0xFFE ∧ s.fetchWord = 0xC#4 ++ (0 : RegIdx) ++ (0x0F : Byte) := by decide

/-- EveryStepKeepsInv, EveryHostActionKeepsInv: a faulted state and a running one with the invariant, not after reset. -/
theorem witness_inv :
    let s := nextOf (step (State.reset.placeWord 0x00EE))
    let t := nextOf (step (State.reset.placeWord 0x6001))
    (s.Inv ∧ s.fault = .stackUnderflow ∧ step s = .next s) ∧
    (t.Inv ∧ t.phase = .running ∧ step t = .next (nextOf (step t)) ∧ hostAct (.setKeys 3) t = .next (t.portKeys 3, .nothing)) := by
  refine ⟨⟨⟨by decide, by decide, by decide, by decide, by decide, by decide, by decide, fun _ _ => rfl, by decide⟩, rfl, rfl⟩,
    ⟨⟨by decide, by decide, by decide, by decide, by decide, by decide, by decide, fun h => (h rfl).elim, by decide⟩, rfl, rfl, rfl⟩⟩

end Sys2Proof.Tests
end

namespace Sys2Proof.Machine

/-! ### The two bytes of the fetched word (20_memory.md R53) -/

@[simp] theorem State.hiByte_fetchWord (s : State) : hiByte s.fetchWord = s.readByte s.pc.toNat :=
  hiByte_wordOfBytes _ _

@[simp] theorem State.loByte_fetchWord (s : State) : loByte s.fetchWord = s.readByte (s.pc.toNat + 1) :=
  loByte_wordOfBytes _ _

/-- Settles O6: the fetched word is built from its two bytes, and its upper and lower halves give them back. -/
theorem fetchedWordIsBigEndian : Obligations.FetchedWordIsBigEndian :=
  fun s => ⟨rfl, s.hiByte_fetchWord, s.loByte_fetchWord⟩

end Sys2Proof.Machine

namespace Sys2Proof.Machine

/-! ### The three ends of an instruction, once for all 34 (00_scope.md R12, 40_cycle_driver.md R100, R101, R105) -/

/-- `InstrEnd i s t`: executed in `s`, `i` leaves `t` in one of the three ways an instruction ends, each with the condition
under which `i` may end so. -/
inductive InstrEnd (i : Instr) (s : State) : State → Prop where
  /-- It completes; next_pc is PC + 2 unless its own rule sets it (R101). -/
  | completed (u : State) (nextPc : Word) (hpc : i.setsPc = false → nextPc = s.following) :
      InstrEnd i s (u.completed nextPc)
  /-- It stalls: `wait-key` with no key pressed (R105). -/
  | stalled (x : RegIdx) (hi : i = .waitKey x) (hkey : s.key = 0) : InstrEnd i s s.stalled
  /-- It faults, with a code of its own and its own word (60_exceptions.md R230, R232). -/
  | faulted (c : FaultCode) (hc : i.canRaise c = true) : InstrEnd i s (s.latched c (encode i))

section
variable {i : Instr} {s t u : State} {pc : Word} {c : FaultCode}

theorem InstrEnd.of_complete (h : complete u pc = .next t) (hpc : i.setsPc = false → pc = s.following) :
    InstrEnd i s t := by
  obtain rfl := (complete_next u pc).mp h
  exact .completed u pc hpc

theorem InstrEnd.of_raiseFault (h : raiseFault s c (encode i) = .next t) (hc : i.canRaise c = true) :
    InstrEnd i s t := by
  obtain rfl := (raiseFault_next s c (encode i)).mp h
  exact .faulted c hc

/-- An instruction that checks one condition first and faults where it does not hold. -/
theorem InstrEnd.of_ite_complete {p : Prop} [Decidable p]
    (h : (if p then complete u pc else raiseFault s c (encode i)) = .next t)
    (hpc : i.setsPc = false → pc = s.following) (hc : i.canRaise c = true) : InstrEnd i s t := by
  split at h
  · exact .of_complete h hpc
  · exact .of_raiseFault h hc

/-- The same check written the other way round, as `return` and `call` have it. -/
theorem InstrEnd.of_ite_raiseFault {p : Prop} [Decidable p]
    (h : (if p then raiseFault s c (encode i) else complete u pc) = .next t)
    (hpc : i.setsPc = false → pc = s.following) (hc : i.canRaise c = true) : InstrEnd i s t :=
  .of_ite_complete (p := ¬ p) (by rwa [ite_not]) hpc hc

/-- 45_timers_input.md R214: no key pressed. -/
theorem execWaitKey_of_no_key (x : RegIdx) (hkey : s.key = 0) : execWaitKey x s = .next s.stalled := by
  simp only [execWaitKey, s.leastKey_none.mpr hkey, stall]

theorem execWaitKey_instrEnd (x : RegIdx) (h : execWaitKey x s = .next t) : InstrEnd (.waitKey x) s t := by
  unfold execWaitKey at h
  split at h
  · exact .of_complete h fun _ => rfl
  · next hnone =>
    obtain rfl := (stall_next s).mp h
    exact .stalled x rfl (s.leastKey_none.mp hnone)

theorem execDraw_instrEnd (x y : RegIdx) (n : Nat) (h : execDraw x y n s = .next t) : InstrEnd (.draw x y n) s t := by
  unfold execDraw at h
  split at h
  · split at h
    · exact .of_complete h fun _ => rfl
    · exact .of_raiseFault h rfl
  · exact .of_raiseFault h rfl

/-- Every instruction ends in one of the three ways. -/
theorem exec_instrEnd (h : exec i s = .next t) : InstrEnd i s t := by
  cases i with
  | clearScreen | setImm | addImm | setReg | orReg | andReg | xorReg | addReg | subReg | shr | subn | shl | setI | rand
  | loadDelay | setDelay | setSound | addI | fontAddr =>
    exact .of_complete h fun _ => rfl
  | jump | skipEqImm | skipNeImm | skipEqReg | skipNeReg | jumpOffset => exact .of_complete h nofun
  | ret | call => exact .of_ite_raiseFault h nofun rfl
  | skipKeyPressed | skipKeyNotPressed => exact .of_ite_complete h nofun rfl
  | bcd | storeRegs | loadRegs => exact .of_ite_complete h (fun _ => rfl) rfl
  | draw x y n => exact execDraw_instrEnd x y n h
  | waitKey x => exact execWaitKey_instrEnd x h

/-! ### PC (40_cycle_driver.md R101) -/

/-- An instruction that does not complete leaves PC. -/
theorem exec_pc_of_not_ok (h : exec i s = .next t) (ht : t.status ≠ .ok) : t.pc = s.pc := by
  cases exec_instrEnd h with
  | completed u nextPc => exact absurd (u.completed_status nextPc) ht
  | stalled | faulted => rfl

/-- An instruction that completes and whose rule sets no PC moves on by 2. -/
theorem exec_pc_of_ok (h : exec i s = .next t) (ht : t.status = .ok) (hi : i.setsPc = false) : t.pc = s.pc + 2 := by
  cases exec_instrEnd h with
  | completed u nextPc hpc => exact hpc hi
  | stalled => exact absurd ht nofun
  | faulted => exact absurd ht nofun

@[simp] theorem State.sampleKeys_pc (s : State) : s.sampleKeys.pc = s.pc := by rw [s.sampleKeys_eq]

/-- Fetch, decode and execute leave PC where they do not complete. -/
theorem runFetched_pc_of_not_ok (h : runFetched s = .next t) (ht : t.status ≠ .ok) : t.pc = s.pc := by
  obtain ⟨-, rfl⟩ | ⟨-, -, rfl⟩ | ⟨-, i, -, hexec⟩ := runFetched_cases h
  · rfl
  · rfl
  · exact exec_pc_of_not_ok hexec ht

theorem step_pc_of_not_ok (h : step s = .next t) (ht : t.status ≠ .ok) : t.pc = s.pc := by
  obtain ⟨-, rfl⟩ | ⟨-, u, hrun, rfl⟩ := step_cases h
  · rfl
  · exact (runFetched_pc_of_not_ok hrun ht).trans s.sampleKeys_pc

/-! ### The stall (40_cycle_driver.md R105) -/

/-- What stalls is `wait-key` with no key pressed, and it leaves all but the status port. -/
theorem exec_stalled (h : exec i s = .next t) (ht : t.status = .stalled) :
    (∃ x, i = .waitKey x) ∧ s.key = 0 ∧ t = s.stalled := by
  cases exec_instrEnd h with
  | completed => exact absurd ht nofun
  | stalled x hi hkey => exact ⟨⟨x, hi⟩, hkey, rfl⟩
  | faulted => exact absurd ht nofun

/-- Neither the fetch nor the decoder stalls, only the instruction. -/
theorem runFetched_stalled (h : runFetched s = .next t) (ht : t.status = .stalled) : t = s.stalled := by
  obtain ⟨-, rfl⟩ | ⟨-, -, rfl⟩ | ⟨-, i, -, hexec⟩ := runFetched_cases h
  · exact absurd ht nofun
  · exact absurd ht nofun
  · exact (exec_stalled hexec ht).2.2

/-- A stalled step writes the sampled keys, the status port and the model's own fields, nothing else. -/
theorem step_stalled (hfault : s.fault = .noFault) (h : step s = .next t) (ht : t.status = .stalled) :
    t = s.sampleKeys.stalled.afterStep := by
  obtain ⟨hne, -⟩ | ⟨-, u, hrun, rfl⟩ := step_cases h
  · exact absurd hfault hne
  · rw [runFetched_stalled hrun ht]

end

/-- Settles O14: for one instruction by the way it ends, for a step by what the step can do. -/
theorem pcMovesByTwoUnlessTheRuleSaysOtherwise : Obligations.PcMovesByTwoUnlessTheRuleSaysOtherwise :=
  ⟨fun _ _ _ h => ⟨exec_pc_of_ok h, exec_pc_of_not_ok h⟩, fun _ _ => step_pc_of_not_ok⟩

/-- Settles O15: `wait-key` with no key is the one way to the stalled end, and a stalled step keeps PC and memory, from
which the next word is fetched. -/
theorem onlyWaitKeyWithNoKeyStalls : Obligations.OnlyWaitKeyWithNoKeyStalls := by
  refine ⟨fun x _ => execWaitKey_of_no_key x, fun i s t h ht => ?_, fun s t hfault h ht => ?_⟩
  · obtain ⟨hi, hkey, -⟩ := exec_stalled h ht
    exact ⟨hi, hkey⟩
  · obtain rfl := step_stalled hfault h ht
    rw [s.sampleKeys_eq]
    exact ⟨s.fetchWord_congr rfl rfl, rfl⟩

end Sys2Proof.Machine

namespace Sys2Proof

/-! ### The words of the control-flow instructions, decoded (30_encoding.md R73, R74, R76) -/

theorem decodeWord_jump (nnn : Imm12) : decodeWord (formatA 0x1 nnn) = some (.jump nnn) := by
  simp [decodeWord]

theorem decodeWord_call (nnn : Imm12) : decodeWord (formatA 0x2 nnn) = some (.call nnn) := by
  simp [decodeWord]

theorem decodeWord_skipEqImm (x : RegIdx) (nn : Byte) : decodeWord (formatXI 0x3 x nn) = some (.skipEqImm x nn) := by
  simp [decodeWord]

theorem decodeWord_skipNeImm (x : RegIdx) (nn : Byte) : decodeWord (formatXI 0x4 x nn) = some (.skipNeImm x nn) := by
  simp [decodeWord]

/-- The low nibble is ignored (30_encoding.md R73, R75). -/
theorem decodeWord_skipEqReg (x y : RegIdx) (n : Nibble) :
    decodeWord (formatXYN 0x5 x y n) = some (.skipEqReg x y) := by
  simp [decodeWord]

/-- The low nibble is ignored (30_encoding.md R73, R75). -/
theorem decodeWord_skipNeReg (x y : RegIdx) (n : Nibble) :
    decodeWord (formatXYN 0x9 x y n) = some (.skipNeReg x y) := by
  simp [decodeWord]

end Sys2Proof

namespace Sys2Proof.Machine

section
variable (s : State)

/-! ### The ends of an instruction, in the words of the claims (00_scope.md R12) -/

theorem complete_eq_stepDone (pc : Word) : complete s pc = .next (s.stepDone pc) :=
  (complete_next s pc).mpr (s.completed_eq_stepDone pc).symm

theorem raiseFault_eq_stepFaulted (c : FaultCode) (w : Word) : raiseFault s c w = .next (s.stepFaulted c w) :=
  (raiseFault_next s c w).mpr (s.latched_eq_stepFaulted c w).symm

/-- How every skip ends (41_control_flow.md R120). -/
theorem complete_skipIf (p : Prop) [Decidable p] :
    complete s (s.skipIf p) = .next (s.stepDone (if p then s.pc + 4 else s.pc + 2)) := by
  simp only [complete_eq_stepDone, State.skipIf, State.following, decide_eq_true_eq]

/-! ### The stack at a depth (10_state.md R29) -/

variable {s} {k : Fin 16}

theorem State.push_of_sp (w : Word) (h : s.sp.val = k.val) :
    s.push w = { s with stack := s.stack.set k.val w, sp := k.succ } := by
  have hsp : (s.push w).sp = k.succ := Fin.ext (by rw [s.push_sp_val w (by omega), h, Fin.val_succ])
  have hstack : (s.push w).stack = s.stack.set k.val w := Vector.ext fun i hi => by
    rw [State.push_stack, h, Vector.getElem_setIfInBounds, Vector.getElem_set]
  rw [← hsp, ← hstack]; rfl

theorem State.top_of_sp (h : s.sp.val = k.val + 1) : s.top = s.stack[k.val] := by
  rw [State.top, h, Nat.add_sub_cancel]
  exact (Array.getElem_eq_getD 0).symm

theorem State.pop_of_sp (h : s.sp.val = k.val + 1) : s.pop = { s with sp := k.castSucc } := by
  have hsp : s.pop.sp = k.castSucc := Fin.ext (by rw [s.pop_sp_val, h]; rfl)
  rw [← hsp]; rfl

/-! ### `return` and `call` at each depth (41_control_flow.md R121, R123) -/

theorem execRet_of_empty (h : s.sp = 0) : execRet s = .next (s.stepFaulted .stackUnderflow (encode .ret)) := by
  have hempty : s.stackEmpty = true := s.stackEmpty_iff.mpr (Fin.ext_iff.mp h)
  rw [execRet, if_pos hempty, raiseFault_eq_stepFaulted]

theorem execRet_of_sp (h : s.sp.val = k.val + 1) :
    execRet s = .next ({ s with sp := k.castSucc }.stepDone (s.stack[k.val] + 2)) := by
  have hempty : ¬ s.stackEmpty = true := by rw [s.stackEmpty_iff]; omega
  rw [execRet, if_neg hempty, complete_eq_stepDone, State.pop_of_sp h, State.top_of_sp h]

theorem execCall_of_full (nnn : Imm12) (h : s.sp = 16) :
    execCall nnn s = .next (s.stepFaulted .stackOverflow (encode (.call nnn))) := by
  have hfull : s.stackFull = true := s.stackFull_iff.mpr (Fin.ext_iff.mp h)
  rw [execCall, if_pos hfull, raiseFault_eq_stepFaulted]

theorem execCall_of_sp (nnn : Imm12) (h : s.sp.val = k.val) :
    execCall nnn s =
      .next ({ s with stack := s.stack.set k.val s.pc, sp := k.succ }.stepDone (addrOf nnn)) := by
  have hfull : ¬ s.stackFull = true := by rw [s.stackFull_iff]; omega
  rw [execCall, if_neg hfull, complete_eq_stepDone, State.push_of_sp s.pc h]

end

/-- Past a `call` at a fetchable address PC is at most 0x1000 (10_state.md R27, 41_control_flow.md R121). -/
theorem toNat_add_two_le {w : Word} (h : w.toNat ≤ 0xFFE) : (w + 2).toNat ≤ 0x1000 := by
  rw [BitVec.toNat_add]
  exact (Nat.mod_le _ _).trans (Nat.add_le_add_right h 2)

/-- Settles O22: by the depth of the stack. -/
theorem returnPopsAndGoesPastTheCall : Obligations.ReturnPopsAndGoesPastTheCall :=
  ⟨rfl, fun _ => ⟨execRet_of_empty, fun _ hsp => ⟨execRet_of_sp hsp, toNat_add_two_le⟩⟩⟩

/-- Settles O23. -/
theorem jumpGoesToItsAddress : Obligations.JumpGoesToItsAddress :=
  fun nnn s => ⟨decodeWord_jump nnn, complete_eq_stepDone s (addrOf nnn)⟩

/-- Settles O24: by the depth of the stack. -/
theorem callPushesItsOwnAddress : Obligations.CallPushesItsOwnAddress :=
  fun nnn _ => ⟨decodeWord_call nnn, execCall_of_full nnn, fun _ => execCall_of_sp nnn⟩

/-- Settles O25: one lemma about how a skip ends, under either condition. -/
theorem skipsOnImmediate : Obligations.SkipsOnImmediate :=
  fun x nn s => ⟨decodeWord_skipEqImm x nn, complete_skipIf s (s.reg x = nn),
    decodeWord_skipNeImm x nn, complete_skipIf s (s.reg x ≠ nn)⟩

/-- Settles O26: as O25, with the low nibble dropped by the decoder. -/
theorem skipsOnRegisters : Obligations.SkipsOnRegisters :=
  fun x y n s => ⟨decodeWord_skipEqReg x y n, complete_skipIf s (s.reg x = s.reg y),
    decodeWord_skipNeReg x y n, complete_skipIf s (s.reg x ≠ s.reg y)⟩

end Sys2Proof.Machine

namespace Sys2Proof

/-! ### The words of the immediate and logic instructions, decoded (30_encoding.md R73, R74, R76) -/

section
variable (x y : RegIdx) (n : Nibble) (nn : Byte)

theorem decodeWord_setImm : decodeWord (formatXI 0x6 x nn) = some (.setImm x nn) := by
  simp [decodeWord]

theorem decodeWord_addImm : decodeWord (formatXI 0x7 x nn) = some (.addImm x nn) := by
  simp [decodeWord]

/-- Family 0x8 is left to its secondary key (30_encoding.md R74). -/
theorem decodeWord_family8 : decodeWord (formatXYN 0x8 x y n) = decodeFamily8 (formatXYN 0x8 x y n) := by
  simp [decodeWord]

theorem decodeWord_setReg : decodeWord (formatXYN 0x8 x y 0x0) = some (.setReg x y) := by
  rw [decodeWord_family8]; simp [decodeFamily8]

theorem decodeWord_orReg : decodeWord (formatXYN 0x8 x y 0x1) = some (.orReg x y) := by
  rw [decodeWord_family8]; simp [decodeFamily8]

theorem decodeWord_andReg : decodeWord (formatXYN 0x8 x y 0x2) = some (.andReg x y) := by
  rw [decodeWord_family8]; simp [decodeFamily8]

theorem decodeWord_xorReg : decodeWord (formatXYN 0x8 x y 0x3) = some (.xorReg x y) := by
  rw [decodeWord_family8]; simp [decodeFamily8]

end

end Sys2Proof

namespace Sys2Proof.Machine

/-! ### The end of an instruction whose whole result is one register (42_alu.md R140) -/

/-- Every register but V[x] is as before, V[0xF] too unless it is the destination. -/
theorem writeResult_eq (s : State) (x : RegIdx) (b : Byte) :
    writeResult s x b = .next ((s.withRegs fun r => if r = x then b else s.reg r).stepDone (s.pc + 2)) := by
  rw [writeResult, complete_eq_stepDone, s.setReg_eq_withRegs]
  rfl

/-- Addition modulo 256 drops the carry out (42_alu.md R142, R147). -/
theorem byte_add_eq_ofNat (a b : Byte) : a + b = BitVec.ofNat 8 ((a.toNat + b.toNat) % 256) :=
  BitVec.eq_of_toNat_eq (by simp)

theorem execAddImm_eq (x : RegIdx) (nn : Byte) (s : State) :
    execAddImm x nn s =
      .next ((s.withRegs fun r => if r = x then BitVec.ofNat 8 (((s.reg x).toNat + nn.toNat) % 256) else s.reg r).stepDone
        (s.pc + 2)) := by
  rw [execAddImm, writeResult_eq, byte_add_eq_ofNat]

/-- Settles O29: one lemma about an instruction that writes one register, with the sum as a number for `add-imm`. -/
theorem immediateWritesTouchNoFlag : Obligations.ImmediateWritesTouchNoFlag :=
  fun x nn s => ⟨decodeWord_setImm x nn, writeResult_eq s x nn, decodeWord_addImm x nn, execAddImm_eq x nn s⟩

/-- Settles O30: the lemma of O29, for each of the four results. -/
theorem logicResultsTouchNoFlag : Obligations.LogicResultsTouchNoFlag :=
  fun x y s => ⟨decodeWord_setReg x y, writeResult_eq s x (s.reg y),
    decodeWord_orReg x y, writeResult_eq s x (s.reg x ||| s.reg y),
    decodeWord_andReg x y, writeResult_eq s x (s.reg x &&& s.reg y),
    decodeWord_xorReg x y, writeResult_eq s x (s.reg x ^^^ s.reg y)⟩

end Sys2Proof.Machine

namespace Sys2Proof

/-! ### The word of `set-I`, decoded (30_encoding.md R73, R76) -/

theorem decodeWord_setI (nnn : Imm12) : decodeWord (formatA 0xA nnn) = some (.setI nnn) := by
  simp [decodeWord]

end Sys2Proof

namespace Sys2Proof.Machine

/-! ### The end of `set-I` (43_index_memory.md R170) -/

theorem execSetI_eq (nnn : Imm12) (s : State) :
    execSetI nnn s = .next ({ s with i := addrOf nnn }.stepDone (s.pc + 2)) :=
  complete_eq_stepDone (s.setI (addrOf nnn)) s.following

/-- Settles O35. -/
theorem setIWritesItsAddress : Obligations.SetIWritesItsAddress :=
  fun nnn s => ⟨decodeWord_setI nnn, execSetI_eq nnn s⟩

end Sys2Proof.Machine

namespace Sys2Proof.Machine

/-! ### The end of `clear-screen` (44_display.md R190) -/

section
variable (s : State)

/-- Every row is zero: a row of the grid is cleared, and past the last one the default is read. -/
theorem State.clearBitmap_row (cy : Nat) : s.clearBitmap.bm.getD cy 0 = 0 := by
  by_cases hcy : cy < 32 <;> simp [Vector.getD, hcy]

@[simp] theorem State.clearBitmap_pixel (cx cy : Nat) : s.clearBitmap.pixel cx cy = false := by
  rw [State.pixel, s.clearBitmap_row]
  exact BitVec.getLsbD_zero

theorem execClearScreen_eq : execClearScreen s = .next (s.clearBitmap.stepDone (s.pc + 2)) :=
  complete_eq_stepDone s.clearBitmap s.following

end

/-- Settles O41: the step completes on the cleared bitmap, and completion leaves every cell. -/
theorem clearScreenClearsEveryCell : Obligations.ClearScreenClearsEveryCell :=
  ⟨rfl, fun s => ⟨s.clearBitmap.stepDone (s.pc + 2), execClearScreen_eq s, rfl, s.clearBitmap_pixel⟩⟩

end Sys2Proof.Machine

namespace Sys2Proof

/-! ### The words of the timer and input instructions, decoded (30_encoding.md R73, R74, R76) -/

section
variable (x : RegIdx)

/-- Family 0xF is left to its secondary key (30_encoding.md R74). -/
theorem decodeWord_familyF (nn : Byte) : decodeWord (formatXI 0xF x nn) = decodeFamilyF (formatXI 0xF x nn) := by
  simp [decodeWord]

theorem decodeWord_loadDelay : decodeWord (formatXI 0xF x 0x07) = some (.loadDelay x) := by
  rw [decodeWord_familyF]; simp [decodeFamilyF]

theorem decodeWord_waitKey : decodeWord (formatXI 0xF x 0x0A) = some (.waitKey x) := by
  rw [decodeWord_familyF]; simp [decodeFamilyF]

theorem decodeWord_setDelay : decodeWord (formatXI 0xF x 0x15) = some (.setDelay x) := by
  rw [decodeWord_familyF]; simp [decodeFamilyF]

end

end Sys2Proof

namespace Sys2Proof.Machine

section
variable (x : RegIdx) (s : State)

/-! ### `load-delay` (45_timers_input.md R213) -/

/-- The write is the one `writeResult` makes, of the DT that has not decayed yet. -/
theorem execLoadDelay_eq :
    execLoadDelay x s = .next ((s.withRegs fun r => if r = x then s.dt else s.reg r).stepDone (s.pc + 2)) :=
  writeResult_eq s x s.dt

/-! ### `wait-key` (45_timers_input.md R214) -/

/-- The scan stops at a pressed key below which none is pressed: the converse of `State.leastKey_some`. -/
theorem State.leastKey_of_least {k : Fin 16} (hk : s.key.getLsbD k.val = true)
    (hleast : ∀ j : Fin 16, j < k → s.key.getLsbD j.val = false) : s.leastKey = some k.val := by
  refine List.find?_range_eq_some.mpr ⟨hk, List.mem_range.mpr k.isLt, fun j hj => ?_⟩
  have hj0 : s.keyPressed j = false := hleast ⟨j, hj.trans k.isLt⟩ hj
  rw [hj0, Bool.not_false]

theorem execWaitKey_of_least {k : Fin 16} (hk : s.key.getLsbD k.val = true)
    (hleast : ∀ j : Fin 16, j < k → s.key.getLsbD j.val = false) :
    execWaitKey x s =
      .next ((s.withRegs fun r => if r = x then BitVec.ofNat 8 k.val else s.reg r).stepDone (s.pc + 2)) := by
  simp only [execWaitKey, s.leastKey_of_least hk hleast]
  exact writeResult_eq s x (BitVec.ofNat 8 k.val)

/-- No key is pressed: KEY is zero. -/
theorem State.key_eq_zero (hnone : ∀ k : Fin 16, s.key.getLsbD k.val = false) : s.key = 0 :=
  BitVec.eq_of_getLsbD_eq fun i hi => by rw [hnone ⟨i, hi⟩]; exact BitVec.getLsbD_zero.symm

/-! ### `set-delay` (45_timers_input.md R215, 40_cycle_driver.md R103) -/

/-- The decay is subtraction that stops at 0. -/
theorem decay_eq_ofNat (b : Byte) : decay b = BitVec.ofNat 8 (b.toNat - 1) := by
  unfold decay
  split
  · next h => rw [h]; rfl
  · next h => bv_omega

theorem execSetDelay_eq :
    execSetDelay x s = .next { (s.stepDone (s.pc + 2)) with dt := BitVec.ofNat 8 ((s.reg x).toNat - 1) } := by
  rw [← decay_eq_ofNat]
  exact complete_eq_stepDone (s.setDelay (s.reg x)) s.following

end

/-- Settles O47: the register write of O29, with the DT of the start of the step. -/
theorem loadDelayReadsBeforeTheDecay : Obligations.LoadDelayReadsBeforeTheDecay :=
  fun x s => ⟨decodeWord_loadDelay x, execLoadDelay_eq x s⟩

/-- Settles O48: by what the scan of the keys finds. -/
theorem waitKeyTakesTheLeastKey : Obligations.WaitKeyTakesTheLeastKey :=
  fun x s => ⟨decodeWord_waitKey x, fun _ => execWaitKey_of_least x s,
    fun hnone => execWaitKey_of_no_key x (s.key_eq_zero hnone)⟩

/-- Settles O49: the decay of the value just written, as a subtraction. -/
theorem setDelayIsDecayedAtOnce : Obligations.SetDelayIsDecayedAtOnce :=
  fun x s => ⟨decodeWord_setDelay x, execSetDelay_eq x s⟩

end Sys2Proof.Machine

namespace Sys2Proof

/-! ### The words of the other instructions, decoded (30_encoding.md R73, R74, R76) -/

section
variable (x y : RegIdx) (n : Nibble) (nn : Byte)

theorem decodeWord_jumpOffset (nnn : Imm12) : decodeWord (formatA 0xB nnn) = some (.jumpOffset nnn) := by
  simp [decodeWord]

theorem decodeWord_rand : decodeWord (formatXI 0xC x nn) = some (.rand x nn) := by
  simp [decodeWord]

theorem decodeWord_draw : decodeWord (formatXYN 0xD x y n) = some (.draw x y n.toNat) := by
  simp [decodeWord]

theorem decodeWord_addReg : decodeWord (formatXYN 0x8 x y 0x4) = some (.addReg x y) := by
  rw [decodeWord_family8]; simp [decodeFamily8]

theorem decodeWord_subReg : decodeWord (formatXYN 0x8 x y 0x5) = some (.subReg x y) := by
  rw [decodeWord_family8]; simp [decodeFamily8]

/-- Y is ignored (30_encoding.md R73, R75). -/
theorem decodeWord_shr : decodeWord (formatXYN 0x8 x y 0x6) = some (.shr x) := by
  rw [decodeWord_family8]; simp [decodeFamily8]

theorem decodeWord_subn : decodeWord (formatXYN 0x8 x y 0x7) = some (.subn x y) := by
  rw [decodeWord_family8]; simp [decodeFamily8]

/-- Y is ignored (30_encoding.md R73, R75). -/
theorem decodeWord_shl : decodeWord (formatXYN 0x8 x y 0xE) = some (.shl x) := by
  rw [decodeWord_family8]; simp [decodeFamily8]

theorem decodeWord_skipKeyPressed : decodeWord (formatXI 0xE x 0x9E) = some (.skipKeyPressed x) := by
  simp [decodeWord, decodeFamilyE]

theorem decodeWord_skipKeyNotPressed : decodeWord (formatXI 0xE x 0xA1) = some (.skipKeyNotPressed x) := by
  simp [decodeWord, decodeFamilyE]

theorem decodeWord_setSound : decodeWord (formatXI 0xF x 0x18) = some (.setSound x) := by
  rw [decodeWord_familyF]; simp [decodeFamilyF]

theorem decodeWord_addI : decodeWord (formatXI 0xF x 0x1E) = some (.addI x) := by
  rw [decodeWord_familyF]; simp [decodeFamilyF]

theorem decodeWord_fontAddr : decodeWord (formatXI 0xF x 0x29) = some (.fontAddr x) := by
  rw [decodeWord_familyF]; simp [decodeFamilyF]

theorem decodeWord_bcd : decodeWord (formatXI 0xF x 0x33) = some (.bcd x) := by
  rw [decodeWord_familyF]; simp [decodeFamilyF]

theorem decodeWord_storeRegs : decodeWord (formatXI 0xF x 0x55) = some (.storeRegs x) := by
  rw [decodeWord_familyF]; simp [decodeFamilyF]

theorem decodeWord_loadRegs : decodeWord (formatXI 0xF x 0x65) = some (.loadRegs x) := by
  rw [decodeWord_familyF]; simp [decodeFamilyF]

end

/-- The row count of a well-formed `draw` fits its 4 bits (30_encoding.md R72). -/
theorem decodeWord_encode_draw (x y : RegIdx) {n : Nat} (h : rowCountFits n = true) :
    decodeWord (encode (.draw x y n)) = some (.draw x y n) := by
  have hn : (BitVec.ofNat 4 n).toNat = n := Nat.mod_eq_of_lt (of_decide_eq_true h)
  rw [encode, decodeWord_draw, hn]

theorem decodeWord_encode {i : Instr} (h : i.wellFormed = true) : decodeWord (encode i) = some i := by
  cases i with
  | clearScreen | ret => rfl
  | jump nnn => exact decodeWord_jump nnn
  | call nnn => exact decodeWord_call nnn
  | skipEqImm x nn => exact decodeWord_skipEqImm x nn
  | skipNeImm x nn => exact decodeWord_skipNeImm x nn
  | skipEqReg x y => exact decodeWord_skipEqReg x y 0
  | setImm x nn => exact decodeWord_setImm x nn
  | addImm x nn => exact decodeWord_addImm x nn
  | setReg x y => exact decodeWord_setReg x y
  | orReg x y => exact decodeWord_orReg x y
  | andReg x y => exact decodeWord_andReg x y
  | xorReg x y => exact decodeWord_xorReg x y
  | addReg x y => exact decodeWord_addReg x y
  | subReg x y => exact decodeWord_subReg x y
  | shr x => exact decodeWord_shr x 0
  | subn x y => exact decodeWord_subn x y
  | shl x => exact decodeWord_shl x 0
  | skipNeReg x y => exact decodeWord_skipNeReg x y 0
  | setI nnn => exact decodeWord_setI nnn
  | jumpOffset nnn => exact decodeWord_jumpOffset nnn
  | rand x nn => exact decodeWord_rand x nn
  | draw x y n => exact decodeWord_encode_draw x y h
  | skipKeyPressed x => exact decodeWord_skipKeyPressed x
  | skipKeyNotPressed x => exact decodeWord_skipKeyNotPressed x
  | loadDelay x => exact decodeWord_loadDelay x
  | waitKey x => exact decodeWord_waitKey x
  | setDelay x => exact decodeWord_setDelay x
  | setSound x => exact decodeWord_setSound x
  | addI x => exact decodeWord_addI x
  | fontAddr x => exact decodeWord_fontAddr x
  | bcd x => exact decodeWord_bcd x
  | storeRegs x => exact decodeWord_storeRegs x
  | loadRegs x => exact decodeWord_loadRegs x

/-- Settles O1: each instruction's word, decoded. -/
theorem encodedInstructionDecodesToItself : Obligations.EncodedInstructionDecodesToItself :=
  fun _ => decodeWord_encode

/-- Settles O5: each word is the one of an instruction form, whose decoding is known. -/
theorem exampleWordsOfTheRulesDecode : Obligations.ExampleWordsOfTheRulesDecode :=
  ⟨decodeWord_jump 0x20A, decodeWord_skipEqReg 1 2 0, decodeWord_jumpOffset 0x300, decodeWord_setImm 0xA 0xFF,
    decodeWord_addImm 2 0x20, decodeWord_subn 1 2, decodeWord_rand 0 0x0F, decodeWord_setI 0x300,
    decodeWord_storeRegs 1, decodeWord_loadRegs 2, decodeWord_skipKeyPressed 1, decodeWord_skipKeyNotPressed 1⟩

end Sys2Proof

namespace Sys2Proof

/-! ### A word put together again from its fields (30_encoding.md R71, R73) -/

section
variable (w : Word)

theorem formatA_fields : formatA (fieldF w) (fieldNNN w) = w :=
  (BitVec.extractLsb'_append_extractLsb'_eq_extractLsb' rfl).trans BitVec.extractLsb'_eq_self

theorem formatXI_fields : formatXI (fieldF w) (fieldX w) (fieldNN w) = w := by
  have hhigh : fieldF w ++ fieldX w = w.extractLsb' 8 8 := BitVec.extractLsb'_append_extractLsb'_eq_extractLsb' rfl
  rw [formatXI, hhigh]
  exact (BitVec.extractLsb'_append_extractLsb'_eq_extractLsb' rfl).trans BitVec.extractLsb'_eq_self

variable {w} {f n : Nibble} {nn : Byte}

theorem formatA_of_family (hf : (fieldF w).toNat = f.toNat) : formatA f (fieldNNN w) = w := by
  rw [← BitVec.eq_of_toNat_eq hf, formatA_fields]

theorem formatXI_of_family (hf : (fieldF w).toNat = f.toNat) : formatXI f (fieldX w) (fieldNN w) = w := by
  rw [← BitVec.eq_of_toNat_eq hf, formatXI_fields]

theorem formatXYN_of_family (hf : (fieldF w).toNat = f.toNat) :
    formatXYN f (fieldX w) (fieldY w) (fieldN w) = w := by
  rw [← BitVec.eq_of_toNat_eq hf, formatXYN_fields]

theorem formatXI_of_byte (hf : (fieldF w).toNat = f.toNat) (hn : (fieldNN w).toNat = nn.toNat) :
    formatXI f (fieldX w) nn = w := by
  rw [← BitVec.eq_of_toNat_eq hn, formatXI_of_family hf]

theorem formatXYN_of_nibble (hf : (fieldF w).toNat = f.toNat) (hn : (fieldN w).toNat = n.toNat) :
    formatXYN f (fieldX w) (fieldY w) n = w := by
  rw [← BitVec.eq_of_toNat_eq hn, formatXYN_of_family hf]

/-- The low nibble masked away (30_encoding.md R75). -/
theorem formatXYN_low_zero (hf : (fieldF w).toNat = f.toNat) :
    formatXYN f (fieldX w) (fieldY w) 0 = w &&& 0xFFF0 :=
  calc formatXYN f (fieldX w) (fieldY w) 0
    _ = formatXYN f (fieldX w) (fieldY w) (fieldN w) &&& formatXYN 0xF 0xF 0xF 0 := by
      rw [formatXYN_and, nibble_and_ones, nibble_and_ones, nibble_and_ones]; simp
    _ = w &&& 0xFFF0 := by rw [formatXYN_of_family hf]; rfl

/-- Y masked away (30_encoding.md R73). -/
theorem formatXYN_y_zero (hf : (fieldF w).toNat = f.toNat) (hn : (fieldN w).toNat = n.toNat) :
    formatXYN f (fieldX w) 0 n = w &&& 0xFF0F :=
  calc formatXYN f (fieldX w) 0 n
    _ = formatXYN f (fieldX w) (fieldY w) n &&& formatXYN 0xF 0xF 0 0xF := by
      rw [formatXYN_and, nibble_and_ones, nibble_and_ones, nibble_and_ones]; simp
    _ = w &&& 0xFF0F := by rw [formatXYN_of_nibble hf hn]; rfl

end

/-! ### What decodes, encoded again (30_encoding.md R73, R75, R78) -/

/-- The word is the one of the instruction, but for the bits the decoder ignores. -/
def Instr.EncodesUpToIgnored (i : Instr) (w : Word) : Prop := i.wellFormed = true ∧ encode i = w &&& i.careMask

section
variable {w : Word} {i : Instr}

/-- An instruction without ignored bits. -/
theorem Instr.EncodesUpToIgnored.of_eq (he : encode i = w) (hwf : i.wellFormed = true) (hm : i.careMask = 0xFFFF) :
    i.EncodesUpToIgnored w :=
  ⟨hwf, by rw [hm, he]; exact BitVec.and_allOnes.symm⟩

theorem decodeFamily0_encodes (h : decodeFamily0 w = some i) : i.EncodesUpToIgnored w := by
  unfold decodeFamily0 at h
  split at h
  · next hw => cases h; exact .of_eq hw.symm rfl rfl
  split at h
  · next hw => cases h; exact .of_eq hw.symm rfl rfl
  · cases h

theorem decodeFamily8_encodes (hf : (fieldF w).toNat = 0x8) (h : decodeFamily8 w = some i) :
    i.EncodesUpToIgnored w := by
  unfold decodeFamily8 at h
  split at h <;> cases h
  iterate 6 next hn => exact .of_eq (formatXYN_of_nibble hf hn) rfl rfl
  next hn => exact ⟨rfl, formatXYN_y_zero hf hn⟩
  next hn => exact .of_eq (formatXYN_of_nibble hf hn) rfl rfl
  next hn => exact ⟨rfl, formatXYN_y_zero hf hn⟩

theorem decodeFamilyE_encodes (hf : (fieldF w).toNat = 0xE) (h : decodeFamilyE w = some i) :
    i.EncodesUpToIgnored w := by
  unfold decodeFamilyE at h
  split at h <;> cases h
  all_goals next hn => exact .of_eq (formatXI_of_byte hf hn) rfl rfl

theorem decodeFamilyF_encodes (hf : (fieldF w).toNat = 0xF) (h : decodeFamilyF w = some i) :
    i.EncodesUpToIgnored w := by
  unfold decodeFamilyF at h
  split at h <;> cases h
  all_goals next hn => exact .of_eq (formatXI_of_byte hf hn) rfl rfl

/-- By the family, and the secondary key where the family has one (30_encoding.md R74). -/
theorem decodeWord_encodes (h : decodeWord w = some i) : i.EncodesUpToIgnored w := by
  unfold decodeWord at h
  split at h
  next => exact decodeFamily0_encodes h
  next hf => cases h; exact .of_eq (formatA_of_family hf) rfl rfl
  next hf => cases h; exact .of_eq (formatA_of_family hf) rfl rfl
  next hf => cases h; exact .of_eq (formatXI_of_family hf) rfl rfl
  next hf => cases h; exact .of_eq (formatXI_of_family hf) rfl rfl
  next hf => cases h; exact ⟨rfl, formatXYN_low_zero hf⟩
  next hf => cases h; exact .of_eq (formatXI_of_family hf) rfl rfl
  next hf => cases h; exact .of_eq (formatXI_of_family hf) rfl rfl
  next hf => exact decodeFamily8_encodes hf h
  next hf => cases h; exact ⟨rfl, formatXYN_low_zero hf⟩
  next hf => cases h; exact .of_eq (formatA_of_family hf) rfl rfl
  next hf => cases h; exact .of_eq (formatA_of_family hf) rfl rfl
  next hf => cases h; exact .of_eq (formatXI_of_family hf) rfl rfl
  next hf =>
    cases h
    have hn : BitVec.ofNat 4 (fieldN w).toNat = fieldN w := BitVec.ofNat_toNat _ _ |>.trans (BitVec.setWidth_eq _)
    exact .of_eq (by rw [encode, hn, formatXYN_of_family hf]) (decide_eq_true (fieldN w).isLt) rfl
  next hf => exact decodeFamilyE_encodes hf h
  next =>
    have hf : (fieldF w).toNat = 0xF := by have := (fieldF w).isLt; grind
    exact decodeFamilyF_encodes hf h

/-- The instructions that can fault have no ignored bits: the word of such an instruction is the word it came from
(60_exceptions.md R232). -/
theorem encode_of_canRaise {c : Machine.FaultCode} (h : decodeWord w = some i) (hc : i.canRaise c = true) :
    encode i = w := by
  have hm : i.careMask = 0xFFFF := by
    cases i with
    | call | ret | draw | bcd | storeRegs | loadRegs | skipKeyPressed | skipKeyNotPressed => rfl
    | _ => exact absurd hc Bool.false_ne_true
  rw [(decodeWord_encodes h).2, hm]
  exact BitVec.and_allOnes

end

/-- Settles O2: by the fields of the word in each family. -/
theorem decodedWordIsItsEncodingButForIgnoredBits : Obligations.DecodedWordIsItsEncodingButForIgnoredBits :=
  fun _ _ => decodeWord_encodes

end Sys2Proof

namespace Sys2Proof

/-! ### The unknown words (30_encoding.md R77) -/

section
variable (w : Word)

theorem decodeFamily0_eq_none_iff : decodeFamily0 w = none ↔ w ≠ 0x00E0 ∧ w ≠ 0x00EE := by
  unfold decodeFamily0
  split_ifs <;> simp_all

theorem decodeFamily8_eq_none_iff :
    decodeFamily8 w = none ↔ fieldN w ∈ [0x8#4, 0x9#4, 0xA#4, 0xB#4, 0xC#4, 0xD#4, 0xF#4] := by
  have hlt := (fieldN w).isLt
  unfold decodeFamily8
  split <;> simp [← BitVec.toNat_inj] <;> grind

theorem decodeFamilyE_eq_none_iff : decodeFamilyE w = none ↔ fieldNN w ∉ [0x9E#8, 0xA1#8] := by
  unfold decodeFamilyE
  split <;> simp_all [← BitVec.toNat_inj]

theorem decodeFamilyF_eq_none_iff :
    decodeFamilyF w = none ↔
      fieldNN w ∉ [0x07#8, 0x0A#8, 0x15#8, 0x18#8, 0x1E#8, 0x29#8, 0x33#8, 0x55#8, 0x65#8] := by
  unfold decodeFamilyF
  split <;> simp_all [← BitVec.toNat_inj]

/-- Only the families with a secondary key have unknown words. -/
theorem decodeWord_eq_none_iff : decodeWord w = none ↔
    (fieldF w = 0x0#4 ∧ w ≠ 0x00E0 ∧ w ≠ 0x00EE) ∨
    (fieldF w = 0x8#4 ∧ fieldN w ∈ [0x8#4, 0x9#4, 0xA#4, 0xB#4, 0xC#4, 0xD#4, 0xF#4]) ∨
    (fieldF w = 0xE#4 ∧ fieldNN w ∉ [0x9E#8, 0xA1#8]) ∨
    (fieldF w = 0xF#4 ∧
      fieldNN w ∉ [0x07#8, 0x0A#8, 0x15#8, 0x18#8, 0x1E#8, 0x29#8, 0x33#8, 0x55#8, 0x65#8]) := by
  rw [← decodeFamily0_eq_none_iff, ← decodeFamily8_eq_none_iff, ← decodeFamilyE_eq_none_iff,
    ← decodeFamilyF_eq_none_iff]
  have hlt := (fieldF w).isLt
  simp only [← BitVec.toNat_inj]
  unfold decodeWord
  split <;> grind

end

/-- Settles O4: by family. -/
theorem unknownWordsAreExactlyThoseOfTheTable : Obligations.UnknownWordsAreExactlyThoseOfTheTable :=
  decodeWord_eq_none_iff

/-! ### The rows of the opcode map that select a word (30_encoding.md R76, 40_cycle_driver.md R110) -/

section
variable {w : Word} {r : OpcodeRow}

theorem OpcodeRow.selects_iff : r.selects w = true ↔ w &&& r.mask = r.bits := by simp [selects]

theorem OpcodeRow.family_of_selects (h : r.selects w = true) : fieldF w &&& fieldF r.mask = fieldF r.bits := by
  rw [← selects_iff.mp h]; exact BitVec.extractLsb'_and.symm

theorem OpcodeRow.nibble_of_selects (h : r.selects w = true) : fieldN w &&& fieldN r.mask = fieldN r.bits := by
  rw [← selects_iff.mp h]; exact BitVec.extractLsb'_and.symm

theorem OpcodeRow.byte_of_selects (h : r.selects w = true) : fieldNN w &&& fieldNN r.mask = fieldNN r.bits := by
  rw [← selects_iff.mp h]; exact BitVec.extractLsb'_and.symm

/-- The rows of family 0x0 fix the whole word. -/
theorem rows_family0 : ∀ r ∈ opcodeMap, 0x0#4 &&& fieldF r.mask = fieldF r.bits →
    r.mask = BitVec.allOnes 16 ∧ (r.bits = 0x00E0 ∨ r.bits = 0x00EE) := by decide

/-- The rows of family 0x8 fix the low nibble. -/
theorem rows_family8 : ∀ r ∈ opcodeMap, 0x8#4 &&& fieldF r.mask = fieldF r.bits →
    fieldN r.mask = BitVec.allOnes 4 ∧ fieldN r.bits ∉ [0x8#4, 0x9#4, 0xA#4, 0xB#4, 0xC#4, 0xD#4, 0xF#4] := by decide

/-- The rows of family 0xE fix the low byte. -/
theorem rows_familyE : ∀ r ∈ opcodeMap, 0xE#4 &&& fieldF r.mask = fieldF r.bits →
    fieldNN r.mask = BitVec.allOnes 8 ∧ fieldNN r.bits ∈ [0x9E#8, 0xA1#8] := by decide

/-- The rows of family 0xF fix the low byte. -/
theorem rows_familyF : ∀ r ∈ opcodeMap, 0xF#4 &&& fieldF r.mask = fieldF r.bits →
    fieldNN r.mask = BitVec.allOnes 8 ∧
      fieldNN r.bits ∈ [0x07#8, 0x0A#8, 0x15#8, 0x18#8, 0x1E#8, 0x29#8, 0x33#8, 0x55#8, 0x65#8] := by decide

/-- No row selects an unknown word. -/
theorem not_selects_of_unknown (hw : decodeWord w = none) (hr : r ∈ opcodeMap) : ¬ r.selects w = true := by
  intro h
  have hfam := OpcodeRow.family_of_selects h
  obtain ⟨hf, hE0, hEE⟩ | ⟨hf, hn⟩ | ⟨hf, hn⟩ | ⟨hf, hn⟩ := (decodeWord_eq_none_iff w).mp hw <;> rw [hf] at hfam
  · obtain ⟨hmask, hbits⟩ := rows_family0 r hr hfam
    have hword : w = r.bits := by rw [← OpcodeRow.selects_iff.mp h, hmask, BitVec.and_allOnes]
    exact hbits.elim (fun hb => hE0 (hword.trans hb)) fun hb => hEE (hword.trans hb)
  · obtain ⟨hmask, hbits⟩ := rows_family8 r hr hfam
    rw [← OpcodeRow.nibble_of_selects h, hmask, BitVec.and_allOnes] at hbits
    exact hbits hn
  · obtain ⟨hmask, hbits⟩ := rows_familyE r hr hfam
    rw [← OpcodeRow.byte_of_selects h, hmask, BitVec.and_allOnes] at hbits
    exact hn hbits
  · obtain ⟨hmask, hbits⟩ := rows_familyF r hr hfam
    rw [← OpcodeRow.byte_of_selects h, hmask, BitVec.and_allOnes] at hbits
    exact hn hbits

/-- Two rows that select one word agree on every bit that both care for. -/
theorem OpcodeRow.agree_of_selects {r' : OpcodeRow} (h : r.selects w = true) (h' : r'.selects w = true) :
    r.bits &&& r'.mask = r'.bits &&& r.mask := by
  rw [← selects_iff.mp h, ← selects_iff.mp h', BitVec.and_assoc, BitVec.and_assoc, BitVec.and_comm r.mask]

/-- Among rows that do not overlap, one row alone selects a word. -/
theorem eq_singleton_of_selects {rows : List OpcodeRow}
    (hdisj : rows.Pairwise fun q q' => q.bits &&& q'.mask ≠ q'.bits &&& q.mask)
    (hsel : ∀ q ∈ rows, q.selects w = true) (hr : r ∈ rows) : rows = [r] := by
  match rows with
  | [q] => rw [List.mem_singleton.mp hr]
  | q :: q' :: rest =>
    exact absurd (OpcodeRow.agree_of_selects (hsel q (by simp)) (hsel q' (by simp)))
      (List.rel_of_pairwise_cons hdisj (by simp))

theorem filter_selects_eq (hr : r ∈ opcodeMap) (h : r.selects w = true) :
    opcodeMap.filter (fun q => q.selects w) = [r] :=
  eq_singleton_of_selects (opcodeMap_pairwise_disjoint.filter _) (fun _ hq => (List.mem_filter.mp hq).2)
    (List.mem_filter.mpr ⟨hr, h⟩)

/-- The word of every instruction is selected by the row of its mnemonic. -/
theorem encodesInRow (i : Instr) : Laws.EncodesInRow.Statement i := by
  cases i with
  | clearScreen => exact Laws.EncodesInRow.clearScreen
  | ret => exact Laws.EncodesInRow.ret
  | jump nnn => exact Laws.EncodesInRow.jump nnn
  | call nnn => exact Laws.EncodesInRow.call nnn
  | skipEqImm x nn => exact Laws.EncodesInRow.skipEqImm x nn
  | skipNeImm x nn => exact Laws.EncodesInRow.skipNeImm x nn
  | skipEqReg x y => exact Laws.EncodesInRow.skipEqReg x y
  | setImm x nn => exact Laws.EncodesInRow.setImm x nn
  | addImm x nn => exact Laws.EncodesInRow.addImm x nn
  | setReg x y => exact Laws.EncodesInRow.setReg x y
  | orReg x y => exact Laws.EncodesInRow.orReg x y
  | andReg x y => exact Laws.EncodesInRow.andReg x y
  | xorReg x y => exact Laws.EncodesInRow.xorReg x y
  | addReg x y => exact Laws.EncodesInRow.addReg x y
  | subReg x y => exact Laws.EncodesInRow.subReg x y
  | shr x => exact Laws.EncodesInRow.shr x
  | subn x y => exact Laws.EncodesInRow.subn x y
  | shl x => exact Laws.EncodesInRow.shl x
  | skipNeReg x y => exact Laws.EncodesInRow.skipNeReg x y
  | setI nnn => exact Laws.EncodesInRow.setI nnn
  | jumpOffset nnn => exact Laws.EncodesInRow.jumpOffset nnn
  | rand x nn => exact Laws.EncodesInRow.rand x nn
  | draw x y n => exact Laws.EncodesInRow.draw x y n
  | skipKeyPressed x => exact Laws.EncodesInRow.skipKeyPressed x
  | skipKeyNotPressed x => exact Laws.EncodesInRow.skipKeyNotPressed x
  | loadDelay x => exact Laws.EncodesInRow.loadDelay x
  | waitKey x => exact Laws.EncodesInRow.waitKey x
  | setDelay x => exact Laws.EncodesInRow.setDelay x
  | setSound x => exact Laws.EncodesInRow.setSound x
  | addI x => exact Laws.EncodesInRow.addI x
  | fontAddr x => exact Laws.EncodesInRow.fontAddr x
  | bcd x => exact Laws.EncodesInRow.bcd x
  | storeRegs x => exact Laws.EncodesInRow.storeRegs x
  | loadRegs x => exact Laws.EncodesInRow.loadRegs x

/-- Which instructions have ignored bits (30_encoding.md R73, R75). -/
theorem Instr.careMask_cases (i : Instr) :
    i.careMask = BitVec.allOnes 16 ∨
    ((i.mnemonic = "skip-eq-reg" ∨ i.mnemonic = "skip-ne-reg") ∧ i.careMask = 0xFFF0) ∨
    ((i.mnemonic = "shr" ∨ i.mnemonic = "shl") ∧ i.careMask = 0xFF0F) := by
  cases i with
  | skipEqReg => exact .inr (.inl ⟨.inl rfl, rfl⟩)
  | skipNeReg => exact .inr (.inl ⟨.inr rfl, rfl⟩)
  | shr => exact .inr (.inr ⟨.inl rfl, rfl⟩)
  | shl => exact .inr (.inr ⟨.inr rfl, rfl⟩)
  | _ => exact .inl rfl

/-- The rows of the two skips on registers look at the family only. -/
theorem rows_skipReg : ∀ r ∈ opcodeMap, (r.mnemonic = "skip-eq-reg" ∨ r.mnemonic = "skip-ne-reg") →
    0xFFF0 &&& r.mask = r.mask := by decide

/-- The rows of the two shifts look at the family and the low nibble only. -/
theorem rows_shift : ∀ r ∈ opcodeMap, (r.mnemonic = "shr" ∨ r.mnemonic = "shl") →
    0xFF0F &&& r.mask = r.mask := by decide

/-- A row looks at no bit that the decoder ignores. -/
theorem careMask_and_mask {i : Instr} (hr : r ∈ opcodeMap) (hm : r.mnemonic = i.mnemonic) :
    i.careMask &&& r.mask = r.mask := by
  obtain hc | ⟨hi, hc⟩ | ⟨hi, hc⟩ := i.careMask_cases <;> rw [hc]
  · exact BitVec.allOnes_and
  · exact rows_skipReg r hr (hm ▸ hi)
  · exact rows_shift r hr (hm ▸ hi)

/-- A word that decodes is selected by the row of its instruction's mnemonic. -/
theorem row_of_decodeWord {i : Instr} (h : decodeWord w = some i) :
    ∃ r ∈ opcodeMap, r.mnemonic = i.mnemonic ∧ r.selects w = true := by
  obtain ⟨r, hr, hm, hsel⟩ := encodesInRow i
  refine ⟨r, hr, hm, OpcodeRow.selects_iff.mpr ?_⟩
  rw [← OpcodeRow.selects_iff.mp hsel, (decodeWord_encodes h).2, BitVec.and_assoc, careMask_and_mask hr hm]

end

/-- Settles O3: an unknown word has no row, and a word that decodes has the row of its instruction and no other. -/
theorem dispatchAgreesWithOpcodeMap : Obligations.DispatchAgreesWithOpcodeMap := by
  intro w
  cases h : decodeWord w with
  | none => simpa using fun r hr => not_selects_of_unknown h hr
  | some i =>
    obtain ⟨r, hr, hm, hsel⟩ := row_of_decodeWord h
    simp [filter_selects_eq hr hsel, hm]

end Sys2Proof

namespace Sys2Proof.Machine

/-! ### What an instruction may have written before it ends (10_state.md R23, R28, R29, R31; 20_memory.md R59) -/

/-- `Work i s u`: `u` is `s` after writes that `i`, executed in `s`, may make before it completes. -/
inductive Work (i : Instr) (s : State) : State → Prop where
  | none : Work i s s
  | setReg {u : State} (hu : Work i s u) (x : RegIdx) (b : Byte) (hx : i.writesReg x = true) : Work i s (u.setReg x b)
  | loadRegs {u : State} (hu : Work i s u) (x : RegIdx) (hi : i = .loadRegs x) : Work i s (u.loadRegsUpTo x s.base)
  | setI {u : State} (hu : Work i s u) (w : Word) (hi : i.writesIndex = true) : Work i s (u.setI w)
  | setDelay (x : RegIdx) (hi : i = .setDelay x) : Work i s (s.setDelay (s.reg x))
  | setSound (x : RegIdx) (hi : i = .setSound x) : Work i s (s.setSound (s.reg x))
  | store (bs : List Byte) (hi : ∀ a, s.base ≤ a → a < s.base + bs.length → i.storesTo s a = true) :
      Work i s (s.writeBytes s.base bs)
  | push (nnn : Imm12) (hi : i = .call nnn) : Work i s (s.push s.pc)
  | pop (hi : i = .ret) : Work i s s.pop
  | clearBitmap (hi : i = .clearScreen) : Work i s s.clearBitmap
  | togglePixel {u : State} (hu : Work i s u) (x y : RegIdx) (n cx cy : Nat) (hi : i = .draw x y n) :
      Work i s (u.togglePixel cx cy)

/-- Where a completing instruction may go (40_cycle_driver.md R101, 41_control_flow.md R120 to R128). -/
inductive Target (s : State) : Word → Prop where
  | following : Target s s.following
  | skipIf (taken : Bool) : Target s (s.skipIf taken)
  | address (nnn : Imm12) : Target s (addrOf nnn)
  | offset (nnn : Imm12) (b : Byte) : Target s (addrOf nnn + wideOf b)
  | afterTop : Target s (s.top + 2)

/-- `i`, executed in `s`, completes in `t`. -/
def Completes (i : Instr) (s t : State) : Prop := ∃ u pc, Work i s u ∧ Target s pc ∧ t = u.completed pc

section
variable {i : Instr} {s t u : State} {pc w : Word} {c : FaultCode}

theorem Completes.of_complete (h : complete u pc = .next t) (hu : Work i s u) (hpc : Target s pc) : Completes i s t :=
  ⟨u, pc, hu, hpc, (complete_next u pc).mp h⟩

theorem not_ok_of_raiseFault (h : raiseFault s c w = .next t) : t.status ≠ .ok := by
  obtain rfl := (raiseFault_next s c w).mp h
  exact nofun

/-- An instruction that checks one condition first. -/
theorem Completes.of_ite {p : Prop} [Decidable p]
    (h : (if p then complete u pc else raiseFault s c w) = .next t) (ht : t.status = .ok)
    (hu : Work i s u) (hpc : Target s pc) : Completes i s t := by
  split at h
  · exact .of_complete h hu hpc
  · exact absurd ht (not_ok_of_raiseFault h)

/-- The same check written the other way round. -/
theorem Completes.of_ite_not {p : Prop} [Decidable p]
    (h : (if p then raiseFault s c w else complete u pc) = .next t) (ht : t.status = .ok)
    (hu : Work i s u) (hpc : Target s pc) : Completes i s t :=
  .of_ite (p := ¬ p) (by rwa [ite_not]) ht hu hpc

theorem Work.plotPixels {x y : RegIdx} {n : Nat} (ps : List (Nat × Nat)) (hu : Work (.draw x y n) s u) :
    Work (.draw x y n) s (ps.foldl plotPixel u) := by
  induction ps generalizing u with
  | nil => exact hu
  | cons p ps ih =>
    refine ih (.togglePixel ?_ x y n p.1 p.2 rfl)
    split
    · exact hu.setReg flagReg (flagByte true) rfl
    · exact hu

theorem execDraw_completes {x y : RegIdx} {n : Nat} (h : execDraw x y n s = .next t) (ht : t.status = .ok) :
    Completes (.draw x y n) s t := by
  unfold execDraw at h
  split at h
  · split at h
    · next ps _ => exact .of_complete h (Work.plotPixels ps (.setReg .none flagReg (flagByte false) rfl)) .following
    · exact absurd ht (not_ok_of_raiseFault h)
  · exact absurd ht (not_ok_of_raiseFault h)

theorem execWaitKey_completes {x : RegIdx} (h : execWaitKey x s = .next t) (ht : t.status = .ok) :
    Completes (.waitKey x) s t := by
  unfold execWaitKey at h
  split at h
  · exact .of_complete h (.setReg .none x _ (decide_eq_true rfl)) .following
  · obtain rfl := (stall_next s).mp h
    exact absurd ht nofun

/-- What a completing instruction may have written, and where it may go: once for all 34. -/
theorem exec_completes (h : exec i s = .next t) (ht : t.status = .ok) : Completes i s t := by
  cases i with
  | clearScreen => exact .of_complete h (.clearBitmap rfl) .following
  | ret => exact .of_ite_not h ht (.pop rfl) .afterTop
  | jump nnn => exact .of_complete h .none (.address nnn)
  | call nnn => exact .of_ite_not h ht (.push nnn rfl) (.address nnn)
  | skipEqImm | skipNeImm | skipEqReg | skipNeReg => exact .of_complete h .none (.skipIf _)
  | setImm x | addImm x | setReg x | orReg x | andReg x | xorReg x | rand x | loadDelay x =>
    exact .of_complete h (.setReg .none x _ (decide_eq_true rfl)) .following
  | addReg x | subReg x | shr x | subn x | shl x =>
    exact .of_complete h (.setReg (.setReg .none flagReg _ (by simp [Instr.writesReg, flagReg])) x _
      (by simp [Instr.writesReg])) .following
  | setI | fontAddr => exact .of_complete h (.setI .none _ rfl) .following
  | addI => exact .of_complete h (.setI (.setReg .none flagReg _ rfl) _ rfl) .following
  | jumpOffset nnn => exact .of_complete h .none (.offset nnn _)
  | draw => exact execDraw_completes h ht
  | skipKeyPressed | skipKeyNotPressed => exact .of_ite h ht .none (.skipIf _)
  | waitKey => exact execWaitKey_completes h ht
  | setDelay x => exact .of_complete h (.setDelay x rfl) .following
  | setSound x => exact .of_complete h (.setSound x rfl) .following
  | bcd x =>
    have hstore : Work (.bcd x) s (s.writeBytes s.base (decimalDigits (s.reg x))) :=
      .store _ fun a hlo hhi => decide_eq_true ⟨hlo, hhi⟩
    exact .of_ite h ht hstore .following
  | storeRegs x =>
    have hstore : Work (.storeRegs x) s (s.writeBytes s.base (s.regsUpTo x)) :=
      .store _ fun a hlo hhi => decide_eq_true ⟨hlo, by rwa [s.length_regsUpTo] at hhi⟩
    exact .of_ite h ht (.setI hstore _ rfl) .following
  | loadRegs x => exact .of_ite h ht (.setI (.loadRegs .none x rfl) _ rfl) .following

/-! ### What the work of an instruction leaves as it was -/

/-- R23: the registers the table does not give it. -/
theorem Work.reg_eq (hw : Work i s u) {r : RegIdx} (hr : i.writesReg r = false) : u.reg r = s.reg r := by
  induction hw with
  | setReg hu x b hx ih =>
    have hne : r ≠ x := by rintro rfl; exact absurd hx (Bool.eq_false_iff.mp hr)
    rw [State.reg_setReg, if_neg hne, ih]
  | loadRegs hu x hi ih =>
    subst hi
    have hgt : ¬ r.toNat ≤ x.toNat := of_decide_eq_false hr
    rw [State.reg_loadRegsUpTo, if_neg hgt, ih]
  | setI hu w hi ih => simpa using ih
  | togglePixel hu x y n cx cy hi ih => simpa using ih
  | none | setDelay | setSound | store | push | pop | clearBitmap => rfl

/-- 20_memory.md R59: the bytes it does not store to. -/
theorem Work.readByte_eq (hw : Work i s u) {a : Nat} (ha : i.storesTo s a = false) : u.readByte a = s.readByte a := by
  induction hw with
  | store bs hi =>
    refine s.readByte_writeBytes_of_not_mem ?_
    by_contra hin
    exact absurd (hi a (by omega) (by omega)) (Bool.eq_false_iff.mp ha)
  | setReg _ _ _ _ ih | loadRegs _ _ _ ih | setI _ _ _ ih | togglePixel _ _ _ _ _ _ _ ih => simpa using ih
  | none | setDelay | setSound | push | pop | clearBitmap => rfl

theorem Work.mem_wf (hw : Work i s u) (h : Memory.wf s.mem = true) : Memory.wf u.mem = true := by
  induction hw with
  | store bs hi => exact Memory.wf_writeBytes s.base bs h
  | setReg _ _ _ _ ih | loadRegs _ _ _ ih | setI _ _ _ ih | togglePixel _ _ _ _ _ _ _ ih => simpa using ih
  | none | setDelay | setSound | push | pop | clearBitmap => exact h

/-- 10_state.md R29. -/
theorem Work.sp_eq (hw : Work i s u) (hcall : ∀ nnn, i ≠ .call nnn) (hret : i ≠ .ret) : u.sp = s.sp := by
  induction hw with
  | push nnn hi => exact absurd hi (hcall nnn)
  | pop hi => exact absurd hi hret
  | setReg _ _ _ _ ih | loadRegs _ _ _ ih | setI _ _ _ ih | togglePixel _ _ _ _ _ _ _ ih => simpa using ih
  | none | setDelay | setSound | store | clearBitmap => rfl

/-- The stack is as before, or it is a `call` that has written PC at SP. -/
theorem Work.stack_cases (hw : Work i s u) :
    u.stack = s.stack ∨ (∃ nnn, i = .call nnn) ∧ u.stack = s.stack.setIfInBounds s.sp.val s.pc := by
  induction hw with
  | push nnn hi => exact .inr ⟨⟨nnn, hi⟩, rfl⟩
  | setReg _ _ _ _ ih | loadRegs _ _ _ ih | setI _ _ _ ih | togglePixel _ _ _ _ _ _ _ ih => simpa using ih
  | none | setDelay | setSound | store | pop | clearBitmap => exact .inl rfl

/-- 10_state.md R28. -/
theorem Work.i_eq (hw : Work i s u) (hi : i.writesIndex = false) : u.i = s.i := by
  induction hw with
  | setI _ _ hi' => exact absurd hi' (Bool.eq_false_iff.mp hi)
  | setReg _ _ _ _ ih | loadRegs _ _ _ ih | togglePixel _ _ _ _ _ _ _ ih => simpa using ih
  | none | setDelay | setSound | store | push | pop | clearBitmap => rfl

/-- 10_state.md R31. -/
theorem Work.bm_eq (hw : Work i s u) (hclear : i ≠ .clearScreen) (hdraw : ∀ x y n, i ≠ .draw x y n) : u.bm = s.bm := by
  induction hw with
  | clearBitmap hi => exact absurd hi hclear
  | togglePixel _ x y n _ _ hi => exact absurd hi (hdraw x y n)
  | setReg _ _ _ _ ih | loadRegs _ _ _ ih | setI _ _ _ ih => simpa using ih
  | none | setDelay | setSound | store | push | pop => rfl

/-- 45_timers_input.md R215. -/
theorem Work.dt_eq (hw : Work i s u) (hi : ∀ x, i ≠ .setDelay x) : u.dt = s.dt := by
  induction hw with
  | setDelay x hi' => exact absurd hi' (hi x)
  | setReg _ _ _ _ ih | loadRegs _ _ _ ih | setI _ _ _ ih | togglePixel _ _ _ _ _ _ _ ih => simpa using ih
  | none | setSound | store | push | pop | clearBitmap => rfl

/-- 45_timers_input.md R216. -/
theorem Work.st_eq (hw : Work i s u) (hi : ∀ x, i ≠ .setSound x) : u.st = s.st := by
  induction hw with
  | setSound x hi' => exact absurd hi' (hi x)
  | setReg _ _ _ _ ih | loadRegs _ _ _ ih | setI _ _ _ ih | togglePixel _ _ _ _ _ _ _ ih => simpa using ih
  | none | setDelay | store | push | pop | clearBitmap => rfl

/-- The latch, KEY and the model's own fields: no instruction's work touches them. -/
theorem Work.host_eq (hw : Work i s u) :
    u.key = s.key ∧ u.edgePolicy = s.edgePolicy ∧ u.inputs = s.inputs ∧ u.draws = s.draws ∧ u.phase = s.phase ∧
      u.fault = s.fault ∧ u.faultInfo = s.faultInfo := by
  induction hw with
  | setReg _ _ _ _ ih | loadRegs _ _ _ ih | setI _ _ _ ih | togglePixel _ _ _ _ _ _ _ ih => simpa using ih
  | none | setDelay | setSound | store | push | pop | clearBitmap => exact ⟨rfl, rfl, rfl, rfl, rfl, rfl, rfl⟩

/-! ### What an instruction leaves as it was, however it ends -/

/-- `t` is `u` after one of the three ends. -/
inductive Ended (u : State) : State → Prop where
  | completed (pc : Word) : Ended u (u.completed pc)
  | stalled : Ended u u.stalled
  | latched (c : FaultCode) (w : Word) : Ended u (u.latched c w)

/-- What an instruction that does not complete leaves. -/
theorem exec_of_not_ok (h : exec i s = .next t) (ht : t.status ≠ .ok) :
    t = s.stalled ∨ ∃ c, i.canRaise c = true ∧ t = s.latched c (encode i) := by
  cases exec_instrEnd h with
  | completed u nextPc => exact absurd (u.completed_status nextPc) ht
  | stalled => exact .inl rfl
  | faulted c hc => exact .inr ⟨c, hc, rfl⟩

/-- Every instruction does its work and ends. An instruction that does not complete has done none. -/
theorem exec_work (h : exec i s = .next t) : ∃ u, Work i s u ∧ Ended u t := by
  by_cases ht : t.status = .ok
  · obtain ⟨u, pc, hw, -, rfl⟩ := exec_completes h ht
    exact ⟨u, hw, .completed pc⟩
  · obtain rfl | ⟨c, -, rfl⟩ := exec_of_not_ok h ht
    · exact ⟨s, .none, .stalled⟩
    · exact ⟨s, .none, .latched c (encode i)⟩

end

/-- Settles O17: no work writes such a register, and no end does. -/
theorem onlyTheTableWritesRegisters : Obligations.OnlyTheTableWritesRegisters := by
  intro i s t r h hr
  obtain ⟨u, hw, hend⟩ := exec_work h
  cases hend <;> exact hw.reg_eq hr

/-- Settles O18: no work stores to such an address, and no end does. -/
theorem onlyTheStoredBytesChange : Obligations.OnlyTheStoredBytesChange := by
  intro i s t a h ha
  obtain ⟨u, hw, hend⟩ := exec_work h
  cases hend <;> exact hw.readByte_eq ha

theorem Work.stack_eq {i : Instr} {s u : State} (hw : Work i s u) (hcall : ∀ nnn, i ≠ .call nnn) :
    u.stack = s.stack := by
  obtain h | ⟨⟨nnn, hi⟩, -⟩ := hw.stack_cases
  · exact h
  · exact absurd hi (hcall nnn)

theorem Work.getElem_stack_eq {i : Instr} {s u : State} (hw : Work i s u) (k : Fin 16) (hk : k.val ≠ s.sp.val) :
    u.stack[k.val] = s.stack[k.val] := by
  obtain h | ⟨-, h⟩ := hw.stack_cases
  · rw [h]
  · rw [h, Vector.getElem_setIfInBounds_ne _ hk.symm]

/-- Settles O19: by what the work of the instruction may have done to the stack. -/
theorem onlyCallAndReturnMoveTheStack : Obligations.OnlyCallAndReturnMoveTheStack := by
  intro i s t h
  obtain ⟨u, hw, hend⟩ := exec_work h
  cases hend <;> exact ⟨hw.sp_eq, hw.stack_eq, hw.getElem_stack_eq⟩

/-- Settles O20: by what the work of the instruction may have done to I and BM. -/
theorem onlyTheNamedInstructionsWriteIAndTheBitmap : Obligations.OnlyTheNamedInstructionsWriteIAndTheBitmap := by
  intro i s t h
  obtain ⟨u, hw, hend⟩ := exec_work h
  cases hend <;> exact ⟨hw.i_eq, hw.bm_eq⟩

/-- Settles O21: no work and no end touches these fields. -/
theorem noInstructionWritesTheHostsSide : Obligations.NoInstructionWritesTheHostsSide := by
  intro i s t h
  obtain ⟨u, hw, hend⟩ := exec_work h
  obtain ⟨hkey, hpolicy, hinputs, hdraws, hphase, -, -⟩ := hw.host_eq
  cases hend <;> exact ⟨hkey, hpolicy, hinputs, hdraws, hphase⟩

/-! ### The timers (40_cycle_driver.md R103) -/

section
variable {i : Instr} {s t : State}

theorem exec_timers_of_not_ok (h : exec i s = .next t) (ht : t.status ≠ .ok) : t.dt = s.dt ∧ t.st = s.st := by
  obtain rfl | ⟨c, -, rfl⟩ := exec_of_not_ok h ht <;> exact ⟨rfl, rfl⟩

theorem exec_dt_of_ok (h : exec i s = .next t) (ht : t.status = .ok) (hi : ∀ x, i ≠ .setDelay x) :
    t.dt = decay s.dt := by
  obtain ⟨u, pc, hw, -, rfl⟩ := exec_completes h ht
  rw [State.completed_dt, hw.dt_eq hi]

theorem exec_st_of_ok (h : exec i s = .next t) (ht : t.status = .ok) (hi : ∀ x, i ≠ .setSound x) :
    t.st = decay s.st := by
  obtain ⟨u, pc, hw, -, rfl⟩ := exec_completes h ht
  rw [State.completed_st, hw.st_eq hi]

theorem exec_setDelay_dt {x : RegIdx} (h : exec (.setDelay x) s = .next t) : t.dt = decay (s.reg x) := by
  obtain rfl := (complete_next _ _).mp h
  rfl

theorem exec_setSound_st {x : RegIdx} (h : exec (.setSound x) s = .next t) : t.st = decay (s.reg x) := by
  obtain rfl := (complete_next _ _).mp h
  rfl

end

/-- Settles O13: completion decays what the work left, which is the old value unless the instruction
writes the timer. -/
theorem timersDecayOncePerCompletedInstruction : Obligations.TimersDecayOncePerCompletedInstruction := by
  refine fun i s t h => ⟨fun ht => ⟨?_, exec_dt_of_ok h ht, ?_, exec_st_of_ok h ht⟩, exec_timers_of_not_ok h⟩
  · rintro x rfl; exact exec_setDelay_dt h
  · rintro x rfl; exact exec_setSound_st h

/-! ### Every instruction answers a next state (00_scope.md R12) -/

theorem exists_next_ite {p : Prop} [Decidable p] {a b : StepOutcome} (ha : ∃ t, a = .next t) (hb : ∃ t, b = .next t) :
    ∃ t, (if p then a else b) = .next t := by
  split
  · exact ha
  · exact hb

theorem exec_next (i : Instr) (s : State) : ∃ t, exec i s = .next t := by
  cases i with
  | ret | call | skipKeyPressed | skipKeyNotPressed | bcd | storeRegs | loadRegs =>
    exact exists_next_ite ⟨_, rfl⟩ ⟨_, rfl⟩
  | draw x y n =>
    refine exists_next_ite ?_ ⟨_, rfl⟩
    split <;> exact ⟨_, rfl⟩
  | waitKey x =>
    change ∃ t, execWaitKey x s = .next t
    unfold execWaitKey
    split <;> exact ⟨_, rfl⟩
  | _ => exact ⟨_, rfl⟩

/-- Settles O11: an instruction that completes leaves the latch, since its work does. -/
theorem everyInstructionEndsInOneOfThreeWays : Obligations.EveryInstructionEndsInOneOfThreeWays := by
  intro i s
  obtain ⟨t, h⟩ := exec_next i s
  refine ⟨t, h, ?_⟩
  by_cases ht : t.status = .ok
  · obtain ⟨u, pc, hw, -, rfl⟩ := exec_completes h ht
    obtain ⟨-, -, -, -, -, hfault, hinfo⟩ := hw.host_eq
    exact .inl ⟨rfl, hfault, hinfo⟩
  · exact .inr (exec_of_not_ok h ht)

/-! ### The host's coming inputs (40_cycle_driver.md R104) -/

/-- The state with other inputs to come and other draws taken. -/
def State.supply (s : State) (inputs : List StepInput) (draws : Nat) : State :=
  { s with inputs := inputs, draws := draws }

/-- An outcome with its next state changed. -/
def mapNext (f : State → State) : StepOutcome → StepOutcome
  | .next s => .next (f s)
  | .fault r => .fault r
  | .refused r => .refused r

theorem ite_eq_mapNext {f : State → State} {p : Prop} [Decidable p] {a b a' b' : StepOutcome}
    (ha : a' = mapNext f a) (hb : b' = mapNext f b) : (if p then a' else b') = mapNext f (if p then a else b) := by
  rw [ha, hb, apply_ite (mapNext f)]

section
variable (s : State) (inputs : List StepInput) (draws : Nat)

theorem plotPixel_supply (p : Nat × Nat) :
    plotPixel (s.supply inputs draws) p = (plotPixel s p).supply inputs draws := by
  have hpixel : (s.supply inputs draws).pixel p.1 p.2 = s.pixel p.1 p.2 := rfl
  unfold plotPixel
  rw [hpixel]
  split <;> rfl

theorem blit_supply (ps : List (Nat × Nat)) : blit (s.supply inputs draws) ps = (blit s ps).supply inputs draws :=
  List.foldl_hom (init := s.setFlag false) (State.supply · inputs draws) fun u p => plotPixel_supply u inputs draws p

theorem execDraw_supply (x y : RegIdx) (n : Nat) :
    execDraw x y n (s.supply inputs draws) = mapNext (State.supply · inputs draws) (execDraw x y n s) := by
  have hpixels : applyEdgePolicy (s.supply inputs draws).edgePolicy ((s.supply inputs draws).drawPixels x y n) =
      applyEdgePolicy s.edgePolicy (s.drawPixels x y n) := rfl
  refine ite_eq_mapNext ?_ rfl
  rw [hpixels]
  cases applyEdgePolicy s.edgePolicy (s.drawPixels x y n) with
  | none => rfl
  | some ps => simp only [blit_supply]; rfl

theorem execWaitKey_supply (x : RegIdx) :
    execWaitKey x (s.supply inputs draws) = mapNext (State.supply · inputs draws) (execWaitKey x s) := by
  have hleast : (s.supply inputs draws).leastKey = s.leastKey := rfl
  unfold execWaitKey
  rw [hleast]
  cases s.leastKey <;> rfl

theorem exec_supply {i : Instr} (hi : ∀ x nn, i ≠ .rand x nn) :
    exec i (s.supply inputs draws) = mapNext (State.supply · inputs draws) (exec i s) := by
  cases i with
  | ret | call | skipKeyPressed | skipKeyNotPressed | bcd | storeRegs | loadRegs => exact ite_eq_mapNext rfl rfl
  | rand x nn => exact absurd rfl (hi x nn)
  | draw x y n => exact execDraw_supply s inputs draws x y n
  | waitKey x => exact execWaitKey_supply s inputs draws x
  | _ => rfl

end

/-- Settles O16: every other instruction commutes with a change of the inputs. -/
theorem onlyRandReadsTheRandomByte : Obligations.OnlyRandReadsTheRandomByte := by
  intro i s inputs draws hi t h
  have hsupply := exec_supply s inputs draws hi
  rwa [h] at hsupply

end Sys2Proof.Machine

namespace Sys2Proof.Machine

/-! ### The step, case by case (40_cycle_driver.md R100, R102, R109) -/

section
variable {s t u : State} {i : Instr}

theorem step_of_faulted (h : s.fault ≠ .noFault) : step s = .next s := if_neg h

theorem step_of_noFault (h : s.fault = .noFault) : step s = finishStep (runFetched s.sampleKeys) := if_pos h

theorem runFetched_of_decodes (hpc : s.pc.toNat ≤ 0xFFE) (h : decodeWord s.fetchWord = some i) :
    runFetched s = exec i s := by
  rw [runFetched, if_pos (s.fetchFits_iff.mpr hpc), h]

theorem runFetched_of_unknown (hpc : s.pc.toNat ≤ 0xFFE) (h : decodeWord s.fetchWord = none) :
    runFetched s = .next (s.latched .unknownOpcode s.fetchWord) := by
  rw [runFetched, if_pos (s.fetchFits_iff.mpr hpc), h]
  rfl

theorem runFetched_of_out_of_range (hpc : 0xFFE < s.pc.toNat) :
    runFetched s = .next (s.latched .fetchOutOfBounds s.pc) := by
  have hfits : ¬ s.fetchFits = true := fun h => absurd (s.fetchFits_iff.mp h) (by omega)
  rw [runFetched, if_neg hfits]
  rfl

/-- Every fetch, decode and execution answers a next state. -/
theorem runFetched_next (s : State) : ∃ t, runFetched s = .next t := by
  by_cases hpc : s.pc.toNat ≤ 0xFFE
  · cases h : decodeWord s.fetchWord with
    | none => exact ⟨_, runFetched_of_unknown hpc h⟩
    | some i => rw [runFetched_of_decodes hpc h]; exact exec_next i s
  · exact ⟨_, runFetched_of_out_of_range (by omega)⟩

theorem step_next (s : State) : ∃ t, step s = .next t := by
  by_cases h : s.fault = .noFault
  · obtain ⟨u, hu⟩ := runFetched_next s.sampleKeys
    exact ⟨u.afterStep, by rw [step_of_noFault h, hu]; rfl⟩
  · exact ⟨s, step_of_faulted h⟩

/-! ### A run of steps -/

theorem core_run_zero (s : State) : Host.Core.run core 0 s = .next s := rfl

theorem core_run_succ (h : step s = .next t) (k : Nat) : Host.Core.run core (k + 1) s = Host.Core.run core k t := by
  have hstep : core.step s = .next t := h
  simp only [Host.Core.run, hstep]

theorem core_run_of_faulted (h : s.fault ≠ .noFault) (k : Nat) : Host.Core.run core k s = .next s := by
  induction k with
  | zero => exact core_run_zero s
  | succ k ih => rw [core_run_succ (step_of_faulted h), ih]

end

/-- Settles O9: for a run by induction on its length. -/
theorem faultedCoreStaysAsItIs : Obligations.FaultedCoreStaysAsItIs :=
  fun _ h => ⟨step_of_faulted h, core_run_of_faulted h⟩

/-- Settles O10: fetch, decode and every instruction answer a next state. -/
theorem everyStepAnswersNext : Obligations.EveryStepAnswersNext := step_next

section
variable {s t : State} {i : Instr}

@[simp] theorem State.sampleKeys_mem (s : State) : s.sampleKeys.mem = s.mem := by rw [s.sampleKeys_eq]

@[simp] theorem State.sampleKeys_fault (s : State) : s.sampleKeys.fault = s.fault := by rw [s.sampleKeys_eq]

/-- KEY is no part of what is fetched. -/
@[simp] theorem State.sampleKeys_fetchWord (s : State) : s.sampleKeys.fetchWord = s.fetchWord :=
  s.fetchWord_congr s.sampleKeys_pc s.sampleKeys_mem

theorem State.afterStep_eq (hinputs : t.inputs = s.inputs) (hdraws : t.draws = s.draws) :
    t.afterStep = { t with inputs := s.inputs.tail, draws := s.draws + 1, phase := .running } := by
  rw [afterStep, hinputs, hdraws]

theorem step_of_decodes (hfault : s.fault = .noFault) (hpc : s.pc.toNat ≤ 0xFFE)
    (h : decodeWord s.fetchWord = some i) : step s = finishStep (exec i s.sampleKeys) := by
  rw [step_of_noFault hfault, runFetched_of_decodes (by rwa [s.sampleKeys_pc]) (by rwa [s.sampleKeys_fetchWord])]

theorem step_of_unknown (hfault : s.fault = .noFault) (hpc : s.pc.toNat ≤ 0xFFE) (h : decodeWord s.fetchWord = none) :
    step s = .next (s.sampleKeys.latched .unknownOpcode s.fetchWord).afterStep := by
  rw [step_of_noFault hfault, runFetched_of_unknown (by rwa [s.sampleKeys_pc]) (by rwa [s.sampleKeys_fetchWord]),
    s.sampleKeys_fetchWord]
  rfl

theorem step_of_out_of_range (hfault : s.fault = .noFault) (hpc : 0xFFE < s.pc.toNat) :
    step s = .next (s.sampleKeys.latched .fetchOutOfBounds s.pc).afterStep := by
  rw [step_of_noFault hfault, runFetched_of_out_of_range (by rwa [s.sampleKeys_pc]), s.sampleKeys_pc]
  rfl

end

/-- Settles O7: the decoded instruction runs on the sampled keys, and leaves the fields that the step then moves on. -/
theorem stepRunsTheInstructionAtPc : Obligations.StepRunsTheInstructionAtPc := by
  intro s i hfault hpc hdecode
  obtain ⟨t, ht⟩ := exec_next i s.sampleKeys
  obtain ⟨-, -, hinputs, hdraws, -⟩ := noInstructionWritesTheHostsSide i s.sampleKeys t ht
  have hstep : step s = .next t.afterStep := by rw [step_of_decodes hfault hpc hdecode, ht]; rfl
  rw [s.sampleKeys_eq] at ht hinputs hdraws
  exact ⟨t, ht, by rw [hstep, State.afterStep_eq hinputs hdraws]⟩

/-- Settles O8: by where PC is. -/
theorem fetchAndDecodeFaultsLatch : Obligations.FetchAndDecodeFaultsLatch := by
  refine fun s hfault => ⟨fun hpc => ?_, fun hpc hdecode => ?_⟩
  · rw [step_of_out_of_range hfault hpc, s.sampleKeys_eq]; rfl
  · rw [step_of_unknown hfault hpc hdecode, s.sampleKeys_eq]; rfl

/-! ### What a latched fault says of its cause (60_exceptions.md R230, R231, R232) -/

/-- Executed in `s`, a step may latch the code `c` with FAULT_INFO `w`. -/
inductive LatchCause (s : State) : FaultCode → Word → Prop where
  | fetch (hpc : 0xFFE < s.pc.toNat) : LatchCause s .fetchOutOfBounds s.pc
  | decode (hpc : s.pc.toNat ≤ 0xFFE) (hword : decodeWord s.fetchWord = none) :
      LatchCause s .unknownOpcode s.fetchWord
  | exec (hpc : s.pc.toNat ≤ 0xFFE) (i : Instr) (hword : decodeWord s.fetchWord = some i) (c : FaultCode)
      (hc : i.canRaise c = true) : LatchCause s c s.fetchWord

section
variable {s t u : State} {i : Instr} {c : FaultCode} {w : Word}

theorem canRaise_noFault (i : Instr) : i.canRaise .noFault = false := by cases i <;> rfl

theorem canRaise_fetchOutOfBounds (i : Instr) : i.canRaise .fetchOutOfBounds = false := by cases i <;> rfl

/-- What fetch, decode and execute leave: a completed instruction's work, a stall, or a latch with its cause. -/
theorem runFetched_ends (h : runFetched s = .next u) :
    (s.pc.toNat ≤ 0xFFE ∧ ∃ i, decodeWord s.fetchWord = some i ∧ exec i s = .next u ∧ u.status = .ok) ∨
    u = s.stalled ∨ ∃ c w, LatchCause s c w ∧ u = s.latched c w := by
  obtain ⟨hpc, rfl⟩ | ⟨hpc, hword, rfl⟩ | ⟨hpc, i, hword, hexec⟩ := runFetched_cases h
  · exact .inr (.inr ⟨_, _, .fetch hpc, rfl⟩)
  · exact .inr (.inr ⟨_, _, .decode hpc hword, rfl⟩)
  · by_cases hok : u.status = .ok
    · exact .inl ⟨hpc, i, hword, hexec, hok⟩
    · obtain rfl | ⟨c, hc, rfl⟩ := exec_of_not_ok hexec hok
      · exact .inr (.inl rfl)
      · exact .inr (.inr ⟨c, _, .exec hpc i hword c hc, by rw [encode_of_canRaise hword hc]⟩)

/-- A fault that a step latches has a cause, and nothing else of the core's state but KEY has changed. -/
theorem step_latches (hfault : s.fault = .noFault) (h : step s = .next t) (ht : t.fault ≠ .noFault) :
    ∃ c w, LatchCause s.sampleKeys c w ∧ t = (s.sampleKeys.latched c w).afterStep := by
  obtain ⟨hne, -⟩ | ⟨-, u, hrun, rfl⟩ := step_cases h
  · exact absurd hfault hne
  obtain ⟨-, i, -, hexec, hok⟩ | rfl | ⟨c, w, hcause, rfl⟩ := runFetched_ends hrun
  · obtain ⟨v, pc, hw, -, rfl⟩ := exec_completes hexec hok
    obtain ⟨-, -, -, -, -, hv, -⟩ := hw.host_eq
    exact absurd (hv.trans (s.sampleKeys_fault.trans hfault)) ht
  · exact absurd (s.sampleKeys_fault.trans hfault) ht
  · exact ⟨c, w, hcause, rfl⟩

theorem LatchCause.fetch_iff (h : LatchCause s c w) : c = .fetchOutOfBounds ↔ 0xFFE < s.pc.toNat := by
  cases h with
  | fetch hpc => exact iff_of_true rfl hpc
  | decode hpc => exact iff_of_false nofun (by omega)
  | exec hpc i hword c hc =>
    refine iff_of_false ?_ (by omega)
    rintro rfl
    exact absurd hc (Bool.eq_false_iff.mp (canRaise_fetchOutOfBounds i))

theorem LatchCause.info_of_fetch (h : LatchCause s c w) (hc : c = .fetchOutOfBounds) : w = s.pc := by
  have hpc := h.fetch_iff.mp hc
  cases h with
  | fetch => rfl
  | decode hle | exec hle => omega

theorem LatchCause.info_of_not_fetch (h : LatchCause s c w) (hc : c ≠ .fetchOutOfBounds) : w = s.fetchWord := by
  cases h with
  | fetch => exact absurd rfl hc
  | decode | exec => rfl

end

/-- Settles O12: by the cause of the latch. -/
theorem latchIdentifiesTheCause : Obligations.LatchIdentifiesTheCause := by
  intro s t hfault h ht
  obtain ⟨c, w, hcause, rfl⟩ := step_latches hfault h ht
  rw [s.sampleKeys_eq] at hcause ⊢
  exact ⟨rfl, rfl, rfl, rfl, rfl, rfl, rfl, rfl, rfl, hcause.fetch_iff, hcause.info_of_fetch, hcause.info_of_not_fetch⟩

/-! ### The timers over a run (70_reset_and_hazards.md R265) -/

section
variable {s t : State}

theorem toNat_decay (b : Byte) : (decay b).toNat = b.toNat - 1 := by
  rw [decay_eq_ofNat, BitVec.toNat_ofNat, Nat.mod_eq_of_lt (by have := b.isLt; omega)]

/-- The word at PC is neither `set-delay` nor `set-sound`. -/
def State.WritesNoTimer (s : State) : Prop :=
  ∀ x, decodeWord s.fetchWord ≠ some (.setDelay x) ∧ decodeWord s.fetchWord ≠ some (.setSound x)

theorem step_timers (hfault : s.fault = .noFault) (hword : s.WritesNoTimer) (h : step s = .next t)
    (ht : t.status = .ok) : t.dt = decay s.dt ∧ t.st = decay s.st := by
  obtain ⟨hne, -⟩ | ⟨-, u, hrun, rfl⟩ := step_cases h
  · exact absurd hfault hne
  obtain ⟨-, i, hi, hexec, hok⟩ | rfl | ⟨c, w, -, rfl⟩ := runFetched_ends hrun
  · rw [s.sampleKeys_fetchWord] at hi
    have hdelay : ∀ x, i ≠ .setDelay x := fun x hx => (hword x).1 (hx ▸ hi)
    have hsound : ∀ x, i ≠ .setSound x := fun x hx => (hword x).2 (hx ▸ hi)
    rw [s.sampleKeys_eq] at hexec
    have hdt := exec_dt_of_ok hexec hok hdelay
    have hst := exec_st_of_ok hexec hok hsound
    exact ⟨hdt, hst⟩
  · exact absurd ht nofun
  · exact absurd ht nofun

end

/-- Settles O51: by induction on the length of the run, each step one lower. -/
theorem timersCountCompletedSteps : Obligations.TimersCountCompletedSteps := by
  intro k
  induction k with
  | zero =>
    intro s t h _
    obtain rfl : s = t := Host.Outcome.next.inj h
    exact ⟨rfl, rfl⟩
  | succ k ih =>
    intro s t h hsteps
    obtain ⟨u, hu⟩ := step_next s
    obtain ⟨hfault, hok, hword⟩ := hsteps 0 s (Nat.succ_pos k) (core_run_zero s)
    obtain ⟨hdt, hst⟩ := step_timers hfault hword hu (hok u hu)
    rw [core_run_succ hu] at h
    obtain ⟨htdt, htst⟩ := ih u t h fun j v hj hv =>
      hsteps (j + 1) v (Nat.succ_lt_succ hj) (by rw [core_run_succ hu, hv])
    rw [htdt, htst, hdt, hst, toNat_decay, toNat_decay]
    omega

end Sys2Proof.Machine

namespace Sys2Proof.Machine

/-! ### The part of the invariant that does not speak of the latch (10_state.md R27; 20_memory.md R50) -/

/-- Canonical memory, PC and every stacked address within their bounds. -/
structure State.Bounded (s : State) : Prop where
  mem : Memory.wf s.mem = true
  pc : s.pc.toNat ≤ 0x10FE
  stack : ∀ k : Fin 16, (s.stack[k.val]).toNat ≤ 0xFFE

section
variable {s t u : State} {i : Instr} {pc w : Word} {c : FaultCode}

theorem State.Inv.bounded (h : s.Inv) : s.Bounded := ⟨h.memoryCanonical, h.pcBounded, h.stackBounded⟩

theorem State.Bounded.sampleKeys (h : s.Bounded) : s.sampleKeys.Bounded := by
  rw [s.sampleKeys_eq]
  exact ⟨h.mem, h.pc, h.stack⟩

theorem toNat_addrOf_le (nnn : Imm12) : (addrOf nnn).toNat ≤ 0xFFF := by
  rw [addrOf, BitVec.toNat_setWidth]
  exact (Nat.mod_le _ _).trans (Nat.le_of_lt_succ nnn.isLt)

theorem toNat_wideOf_le (b : Byte) : (wideOf b).toNat ≤ 0xFF := by
  rw [wideOf, BitVec.toNat_setWidth]
  exact (Nat.mod_le _ _).trans (Nat.le_of_lt_succ b.isLt)

theorem toNat_add_le_add (a b : Word) : (a + b).toNat ≤ a.toNat + b.toNat := by
  rw [BitVec.toNat_add]
  exact Nat.mod_le _ _

theorem State.Bounded.top (h : s.Bounded) : s.top.toNat ≤ 0xFFE := by
  have hlt : s.sp.val - 1 < 16 := by omega
  have htop : s.top = s.stack[s.sp.val - 1] := (Array.getElem_eq_getD 0).symm
  rw [htop]
  exact h.stack ⟨s.sp.val - 1, hlt⟩

/-- "The largest value PC can take is 0x10FE" (10_state.md R27): the one of `jump-offset`. -/
theorem Target.bounded (h : Target s pc) (hs : s.Bounded) (hpc : s.pc.toNat ≤ 0xFFE) : pc.toNat ≤ 0x10FE := by
  cases h with
  | following => exact (toNat_add_two_le hpc).trans (by decide)
  | skipIf taken =>
    cases taken with
    | false => exact (toNat_add_two_le hpc).trans (by decide)
    | true => exact (toNat_add_le_add s.pc 4).trans (Nat.add_le_add_right hpc 4 |>.trans (by decide))
  | address nnn => exact (toNat_addrOf_le nnn).trans (by decide)
  | offset nnn b => exact (toNat_add_le_add _ _).trans (Nat.add_le_add (toNat_addrOf_le nnn) (toNat_wideOf_le b))
  | afterTop => exact (toNat_add_two_le hs.top).trans (by decide)

/-- "Every stacked address is the address of an executed `call`" (10_state.md R27). -/
theorem Work.stack_bounded (hw : Work i s u) (hs : s.Bounded) (hpc : s.pc.toNat ≤ 0xFFE) (k : Fin 16) :
    (u.stack[k.val]).toNat ≤ 0xFFE := by
  obtain h | ⟨-, h⟩ := hw.stack_cases
  · rw [h]; exact hs.stack k
  · rw [h, Vector.getElem_setIfInBounds]
    split
    · exact hpc
    · exact hs.stack k

theorem exec_bounded (h : exec i s = .next t) (ht : t.status = .ok) (hs : s.Bounded) (hpc : s.pc.toNat ≤ 0xFFE) :
    t.Bounded := by
  obtain ⟨u, pc, hw, htarget, rfl⟩ := exec_completes h ht
  exact ⟨hw.mem_wf hs.mem, htarget.bounded hs hpc, hw.stack_bounded hs hpc⟩

/-! ### The invariant, with and without a latched fault (10_state.md R33; 60_exceptions.md R230, R232) -/

/-- No fault is latched: the clauses on the latch say nothing. -/
theorem State.Inv.of_noFault (hs : s.Bounded) (hfault : s.fault = .noFault) (hinfo : s.faultInfo = 0)
    (hstatus : s.status ≠ .fault) : s.Inv where
  memoryCanonical := hs.mem
  pcBounded := hs.pc
  stackBounded := hs.stack
  statusSaysFault := iff_of_false hstatus (not_not_intro hfault)
  noFaultNoInfo _ := hinfo
  fetchFaultInfo h := absurd (hfault.symm.trans h) nofun
  wordFaultInfo h := absurd hfault h
  faultCause h := absurd hfault h
  noFaultBeforeFirstStep _ := hfault

theorem LatchCause.ne_noFault (h : LatchCause s c w) : c ≠ .noFault := by
  cases h with
  | fetch | decode => exact nofun
  | exec hpc i hword c hc =>
    rintro rfl
    exact absurd hc (Bool.eq_false_iff.mp (canRaise_noFault i))

/-- The latched word is no instruction for code 1, and else the instruction that raises the code. -/
theorem LatchCause.cause (h : LatchCause s c w) (hc : c ≠ .fetchOutOfBounds) :
    match decodeWord w with
    | none => c = .unknownOpcode
    | some i => i.canRaise c = true := by
  cases h with
  | fetch => exact absurd rfl hc
  | decode hpc hword => rw [hword]
  | exec hpc i hword c hraise => rw [hword]; exact hraise

/-- A latch with a cause. -/
theorem LatchCause.inv (h : LatchCause s c w) (hs : s.Bounded) : (s.latched c w).afterStep.Inv where
  memoryCanonical := hs.mem
  pcBounded := hs.pc
  stackBounded := hs.stack
  statusSaysFault := iff_of_true rfl h.ne_noFault
  noFaultNoInfo hc := absurd hc h.ne_noFault
  fetchFaultInfo hc := ⟨h.info_of_fetch hc, h.fetch_iff.mp hc⟩
  wordFaultInfo _ hc := ⟨h.info_of_not_fetch hc, Nat.le_of_not_lt (h.fetch_iff.not.mp hc)⟩
  faultCause _ hc := h.cause hc
  noFaultBeforeFirstStep hphase := absurd rfl hphase

/-- Every step keeps the invariant. -/
theorem step_inv (hs : s.Inv) (h : step s = .next t) : t.Inv := by
  obtain ⟨-, rfl⟩ | ⟨hfault, u, hrun, rfl⟩ := step_cases h
  · exact hs
  have hinfo := hs.noFaultNoInfo hfault
  have hb := hs.bounded.sampleKeys
  rw [s.sampleKeys_eq] at hrun hb
  obtain ⟨hpc, i, -, hexec, hok⟩ | rfl | ⟨c, w, hcause, rfl⟩ := runFetched_ends hrun
  · have hu := exec_bounded hexec hok hb hpc
    obtain ⟨v, pc, hw, -, rfl⟩ := exec_completes hexec hok
    obtain ⟨-, -, -, -, -, hvfault, hvinfo⟩ := hw.host_eq
    exact .of_noFault ⟨hu.mem, hu.pc, hu.stack⟩ (hvfault.trans hfault) (hvinfo.trans hinfo) nofun
  · exact .of_noFault ⟨hb.mem, hb.pc, hb.stack⟩ hfault hinfo nofun
  · exact hcause.inv hb

end

/-- Settles O58: by how fetch, decode and execute end. -/
theorem everyStepKeepsInv : Obligations.EveryStepKeepsInv := fun _ _ => step_inv

/-! ### The host's interactions (40_cycle_driver.md R108, R112) -/

section
variable {s t : State} {r : Byte} {reply : HostReply}

theorem withStatus_next {o : StepOutcome} (h : withStatus o = .next (t, reply)) : o = .next t := by
  cases o with
  | next u => cases h; rfl
  | fault e => exact nomatch e
  | refused e => cases h

theorem State.reset_bounded : State.reset.Bounded := ⟨rfl, by decide, by decide⟩

/-- The reset port leaves no latch, and memory, PC and the stack at their reset values. -/
theorem State.portReset_inv (s : State) : s.portReset.Inv :=
  .of_noFault ⟨reset_bounded.mem, reset_bounded.pc, reset_bounded.stack⟩ rfl rfl nofun

theorem hostAct_load_fresh (h : s.phase = .fresh) (image : List Byte) :
    hostAct (.load image) s = .next ((s.portLoad image).2, .load (s.portLoad image).1) := if_pos h

theorem hostAct_load_late (h : s.phase ≠ .fresh) (image : List Byte) :
    hostAct (.load image) s = .refused .loadOutOfOrder := if_neg h

/-- The load port leaves the latch as it is: empty, before the first step. -/
theorem State.Inv.portLoad (hs : s.Inv) (hphase : s.phase = .fresh) (image : List Byte) : (s.portLoad image).2.Inv := by
  have hfault : s.fault = .noFault := hs.noFaultBeforeFirstStep (by rw [hphase]; nofun)
  have hstatus : s.status ≠ .fault := hs.statusSaysFault.not.mpr (not_not_intro hfault)
  unfold State.portLoad
  split
  · exact .of_noFault ⟨Memory.wf_writeBytes _ _ hs.memoryCanonical, hs.pcBounded, hs.stackBounded⟩ hfault
      (hs.noFaultNoInfo hfault) hstatus
  · exact hs

theorem State.Inv.portKeys (hs : s.Inv) (keys : Word) : (s.portKeys keys).Inv := { hs with }

/-- Inputs to come are no part of the invariant. -/
theorem State.Inv.withInputs (hs : s.Inv) (inputs : List StepInput) :
    State.Inv { s with inputs := inputs } := { hs with }

theorem portStep_inv (hs : s.Inv) (h : s.portStep r = .next t) : t.Inv := by
  unfold State.portStep at h
  split at h
  · exact step_inv (hs.withInputs _) h
  · cases h; exact hs

theorem hostAct_inv {a : HostAction} (hs : s.Inv) (h : hostAct a s = .next (t, reply)) : t.Inv := by
  cases a with
  | reset => cases h; exact s.portReset_inv
  | load image =>
    by_cases hphase : s.phase = .fresh
    · rw [hostAct_load_fresh hphase] at h
      cases h; exact hs.portLoad hphase image
    · rw [hostAct_load_late hphase] at h
      cases h
  | setKeys keys => cases h; exact hs.portKeys keys
  | step r => exact portStep_inv hs (withStatus_next h)
  | readBitmap | readFault => cases h; exact hs

end

/-- Settles O59: by the interaction; the step's own case is O58. -/
theorem everyHostActionKeepsInv : Obligations.EveryHostActionKeepsInv := fun _ _ _ _ => hostAct_inv

/-- Settles O60: the reset state is the one the reset port leaves of it. -/
theorem resetHasInv : Obligations.ResetHasInv := State.reset.portReset_inv

end Sys2Proof.Machine

namespace Sys2Proof.Machine

/-! ### Control flow: `jump-offset`, and the `return` that finds a call's entry (41_control_flow.md R128, R129) -/

theorem toNat_addrOf (nnn : Imm12) : (addrOf nnn).toNat = nnn.toNat :=
  BitVec.toNat_setWidth_of_le (by decide)

theorem toNat_wideOf (b : Byte) : (wideOf b).toNat = b.toNat :=
  BitVec.toNat_setWidth_of_le (by decide)

/-- Settles O27: the sum of the zero-extended operands, as a number. -/
theorem jumpOffsetAddsV0Unmasked : Obligations.JumpOffsetAddsV0Unmasked := by
  refine fun nnn s => ⟨decodeWord_jumpOffset nnn, ?_⟩
  have hsum : addrOf nnn + wideOf (s.reg 0) = BitVec.ofNat 16 (nnn.toNat + (s.reg 0).toNat) :=
    BitVec.eq_of_toNat_eq (by rw [BitVec.toNat_add, toNat_addrOf, toNat_wideOf, BitVec.toNat_ofNat])
  rw [← hsum]
  exact complete_eq_stepDone s _

/-- Settles O28: the entry that `call` writes at SP is the one that `return` reads below the new SP. -/
theorem returnUndoesCall : Obligations.ReturnUndoesCall := by
  intro nnn s k hsp
  refine ⟨_, execCall_of_sp nnn hsp, rfl, fun u husp hustack => ?_⟩
  have husp' : u.sp.val = k.val + 1 := congrArg Fin.val husp
  have hentry : u.stack[k.val] = s.pc := hustack.trans (Vector.getElem_set_self k.isLt)
  exact ⟨_, execRet_of_sp husp', rfl, by rw [← hentry]; rfl, Fin.ext hsp.symm⟩

/-! ### The flag, then the result from the file after it (42_alu.md R140, R147 to R151) -/

section
variable (s : State) (x : RegIdx) (b : Bool)

/-- The register file after the flag write, as a function `f`. -/
theorem writeResult_setFlag {f : RegIdx → Byte} (hf : ∀ r, (s.setFlag b).reg r = f r) (v : Byte) :
    writeResult (s.setFlag b) x v =
      .next ((s.withRegs fun r => if r = x then v else f r).stepDone (s.pc + 2)) := by
  simp only [writeResult_eq, hf]
  rfl

/-- The flag write, with the flag as a byte. -/
theorem reg_setFlag_of_eq {v : Byte} (hv : flagByte b = v) (r : RegIdx) :
    (s.setFlag b).reg r = if r = 0xF then v else s.reg r := by
  rw [s.reg_setFlag, hv]

theorem flagByte_addCarry (a b : Byte) : flagByte (addCarry a b) = if a.toNat + b.toNat > 255 then 1 else 0 := by
  have hiff : (b.toNat > 255 - a.toNat) ↔ a.toNat + b.toNat > 255 := by have := a.isLt; omega
  simp only [flagByte, addCarry, decide_eq_true_eq, hiff]

theorem flagByte_noBorrow (a b : Byte) : flagByte (noBorrow a b) = if b.toNat > a.toNat then 0 else 1 := by
  simp only [flagByte, noBorrow, Bool.not_eq_true', decide_eq_false_iff_not, ite_not]

theorem byte_sub_eq_ofNat (a b : Byte) : a - b = BitVec.ofNat 8 ((a.toNat + 256 - b.toNat) % 256) :=
  BitVec.eq_of_toNat_eq (by bv_omega)

theorem flagByte_shrOut (a : Byte) : flagByte (shrOut a) = BitVec.ofNat 8 (a.toNat % 2) := by
  have := a.isLt
  simp only [flagByte, shrOut, BitVec.getLsbD, Nat.testBit_zero, decide_eq_true_eq]
  split <;> bv_omega

theorem flagByte_shlOut (a : Byte) : flagByte (shlOut a) = BitVec.ofNat 8 (a.toNat / 128) := by
  have := a.isLt
  simp only [flagByte, shlOut, BitVec.getLsbD, Nat.testBit_eq_decide_div_mod_eq, decide_eq_true_eq]
  split <;> bv_omega

theorem byte_shr_eq_ofNat (a : Byte) : a >>> 1 = BitVec.ofNat 8 (a.toNat / 2) := by
  bv_omega

theorem byte_shl_eq_ofNat (a : Byte) : a <<< 1 = BitVec.ofNat 8 (a.toNat * 2 % 256) := by
  bv_omega

end

/-- Settles O31: the carry as a flag, the sum from the file after it. -/
theorem addRegWritesCarryThenSum : Obligations.AddRegWritesCarryThenSum := by
  intro x y s f
  have hf : ∀ r, (s.setFlag (addCarry (s.reg x) (s.reg y))).reg r = f r :=
    reg_setFlag_of_eq s _ (flagByte_addCarry (s.reg x) (s.reg y))
  refine ⟨decodeWord_addReg x y, (writeResult_setFlag s x _ hf _).trans ?_⟩
  rw [hf, hf, byte_add_eq_ofNat]

/-- Settles O32: as O31, for a difference and with the operands either way round. -/
theorem subtractionsWriteNoBorrowThenDifference : Obligations.SubtractionsWriteNoBorrowThenDifference := by
  intro x y s f g
  have hf : ∀ r, (s.setFlag (noBorrow (s.reg x) (s.reg y))).reg r = f r :=
    reg_setFlag_of_eq s _ (flagByte_noBorrow (s.reg x) (s.reg y))
  have hg : ∀ r, (s.setFlag (noBorrow (s.reg y) (s.reg x))).reg r = g r :=
    reg_setFlag_of_eq s _ (flagByte_noBorrow (s.reg y) (s.reg x))
  refine ⟨decodeWord_subReg x y, (writeResult_setFlag s x _ hf _).trans ?_,
    decodeWord_subn x y, (writeResult_setFlag s x _ hg _).trans ?_⟩
  · rw [hf, hf, byte_sub_eq_ofNat]
  · rw [hg, hg, byte_sub_eq_ofNat]

/-- Settles O33: as O31, for the bit shifted out and the shifted byte. -/
theorem shiftsWriteTheBitOutThenTheResult : Obligations.ShiftsWriteTheBitOutThenTheResult := by
  intro x y s f g
  have hf : ∀ r, (s.setFlag (shrOut (s.reg x))).reg r = f r := reg_setFlag_of_eq s _ (flagByte_shrOut (s.reg x))
  have hg : ∀ r, (s.setFlag (shlOut (s.reg x))).reg r = g r := reg_setFlag_of_eq s _ (flagByte_shlOut (s.reg x))
  refine ⟨decodeWord_shr x y, (writeResult_setFlag s x _ hf _).trans ?_,
    decodeWord_shl x y, (writeResult_setFlag s x _ hg _).trans ?_⟩
  · rw [hf, byte_shr_eq_ofNat]
  · rw [hg, byte_shl_eq_ofNat]

/-! ### `rand` (42_alu.md R152, 40_cycle_driver.md R104) -/

theorem execRand_eq (x : RegIdx) (nn : Byte) (s : State) :
    execRand x nn s =
      .next ((s.withRegs fun r => if r = x then s.randByte &&& nn else s.reg r).stepDone (s.pc + 2)) :=
  writeResult_eq s x (s.randByte &&& nn)

/-- Settles O34: by whether the host supplies a byte; what is masked with NN has no bit outside it. -/
theorem randMasksTheStepsByte : Obligations.RandMasksTheStepsByte := by
  refine fun x nn s => ⟨decodeWord_rand x nn, fun keys r later h => ?_, fun h => ?_, ?_⟩
  · obtain rfl : s.randByte = r := s.randByte_cons h
    exact execRand_eq x nn s
  · rw [← s.randByte_nil h]; exact execRand_eq x nn s
  · refine ⟨_, execRand_eq x nn s, ?_⟩
    rw [State.stepDone_reg, State.reg_withRegs, if_pos rfl, BitVec.and_assoc, BitVec.and_not_self]
    exact BitVec.and_zero

/-! ### The index register (43_index_memory.md R171, R172) -/

theorem flagByte_indexExceeds (i : Word) (b : Byte) :
    flagByte (indexExceeds (i + wideOf b)) = if (i.toNat + b.toNat) % 65536 > 0xFFF then 1 else 0 := by
  simp only [flagByte, indexExceeds, BitVec.toNat_add, toNat_wideOf, decide_eq_true_eq]

theorem index_add_eq_ofNat (i : Word) (b : Byte) :
    i + wideOf b = BitVec.ofNat 16 ((i.toNat + b.toNat) % 65536) :=
  BitVec.eq_of_toNat_eq (by rw [BitVec.toNat_add, toNat_wideOf, BitVec.toNat_ofNat, Nat.mod_mod])

/-- Settles O36: the flag from the 16-bit sum, I from V[X] after the flag write. -/
theorem addIWritesFlagThenSum : Obligations.AddIWritesFlagThenSum := by
  intro x s f
  have hf : ∀ r, (s.setFlag (indexExceeds (s.i + wideOf (s.reg x)))).reg r = f r :=
    reg_setFlag_of_eq s _ (flagByte_indexExceeds s.i (s.reg x))
  refine ⟨decodeWord_addI x, (complete_eq_stepDone _ _).trans ?_⟩
  rw [State.setFlag_i, hf, index_add_eq_ofNat s.i (f x), State.eq_withRegs hf]
  rfl

/-- Settles O37: the product of the zero-extended register, as a number. -/
theorem fontAddrIsFiveTimesTheRegister : Obligations.FontAddrIsFiveTimesTheRegister := by
  refine fun x s => ⟨decodeWord_fontAddr x, ?_⟩
  have hprod : wideOf (s.reg x) * 5 = BitVec.ofNat 16 ((s.reg x).toNat * 5) :=
    BitVec.eq_of_toNat_eq (by rw [BitVec.toNat_mul, toNat_wideOf, BitVec.toNat_ofNat]; rfl)
  rw [← hprod]
  exact complete_eq_stepDone (s.setI (wideOf (s.reg x) * 5)) s.following

end Sys2Proof.Machine

namespace Sys2Proof.Machine

/-! ### `bcd`, `store-regs`, `load-regs` (43_index_memory.md R173 to R175, 20_memory.md R54) -/

section
variable {s : State} {x : RegIdx}

/-- An access of `n + 1` bytes from I, checked by its highest address. -/
theorem State.accessFits_base_iff (n : Nat) : accessFits s.base (n + 1) = true ↔ s.i.toNat + n ≤ 0xFFF := by
  rw [accessFits_iff, State.base]; omega

theorem State.accessFits_regSpan_iff : accessFits s.base (regSpan x) = true ↔ s.i.toNat + x.toNat ≤ 0xFFF :=
  s.accessFits_base_iff x.toNat

theorem execBcd_of_out_of_range (h : 0xFFF < s.i.toNat + 2) :
    execBcd x s = .next (s.stepFaulted .memoryOutOfBounds (encode (.bcd x))) := by
  have hfits : ¬ accessFits s.base 3 = true := by rw [s.accessFits_base_iff 2]; omega
  rw [execBcd, if_neg hfits, raiseFault_eq_stepFaulted]

theorem execBcd_of_fits (h : s.i.toNat + 2 ≤ 0xFFF) :
    execBcd x s = .next ((s.writeBytes s.base (decimalDigits (s.reg x))).stepDone (s.pc + 2)) := by
  rw [execBcd, if_pos ((s.accessFits_base_iff 2).mpr h), complete_eq_stepDone]
  rfl

theorem execStoreRegs_of_out_of_range (h : 0xFFF < s.i.toNat + x.toNat) :
    execStoreRegs x s = .next (s.stepFaulted .memoryOutOfBounds (encode (.storeRegs x))) := by
  have hfits : ¬ accessFits s.base (regSpan x) = true := by rw [State.accessFits_regSpan_iff]; omega
  rw [execStoreRegs, if_neg hfits, raiseFault_eq_stepFaulted]

theorem execStoreRegs_of_fits (h : s.i.toNat + x.toNat ≤ 0xFFF) :
    execStoreRegs x s = .next (((s.writeBytes s.base (s.regsUpTo x)).setI (s.advancedI x)).stepDone (s.pc + 2)) := by
  rw [execStoreRegs, if_pos (State.accessFits_regSpan_iff.mpr h), complete_eq_stepDone]
  rfl

theorem execLoadRegs_of_out_of_range (h : 0xFFF < s.i.toNat + x.toNat) :
    execLoadRegs x s = .next (s.stepFaulted .memoryOutOfBounds (encode (.loadRegs x))) := by
  have hfits : ¬ accessFits s.base (regSpan x) = true := by rw [State.accessFits_regSpan_iff]; omega
  rw [execLoadRegs, if_neg hfits, raiseFault_eq_stepFaulted]

theorem execLoadRegs_of_fits (h : s.i.toNat + x.toNat ≤ 0xFFF) :
    execLoadRegs x s = .next (((s.loadRegsUpTo x s.base).setI (s.advancedI x)).stepDone (s.pc + 2)) := by
  rw [execLoadRegs, if_pos (State.accessFits_regSpan_iff.mpr h), complete_eq_stepDone]
  rfl

theorem State.withRegs_update_v (s : State) (v : Vector Byte 16) (f : RegIdx → Byte) :
    State.withRegs { s with v := v } f = s.withRegs f := rfl

/-- A state that differs from `s` in its register file only, which is `f`. -/
theorem State.eq_withRegs_of_update {s t : State} {f : RegIdx → Byte} (ht : t = { s with v := t.v })
    (hf : ∀ r, t.reg r = f r) : t = s.withRegs f :=
  calc t = t.withRegs f := State.eq_withRegs hf
    _ = State.withRegs { s with v := t.v } f := congrArg (State.withRegs · f) ht
    _ = s.withRegs f := s.withRegs_update_v t.v f

theorem State.loadRegsUpTo_eq_withRegs (s : State) (x : RegIdx) (a : Nat) : s.loadRegsUpTo x a =
    s.withRegs fun r => if r.toNat ≤ x.toNat then s.readByte (a + r.toNat) else s.reg r :=
  State.eq_withRegs_of_update rfl fun r => s.reg_loadRegsUpTo x r a

theorem State.advancedI_eq_ofNat : s.advancedI x = BitVec.ofNat 16 (s.i.toNat + x.toNat + 1) :=
  BitVec.eq_of_toNat_eq (by simp [State.advancedI, regSpan, Nat.add_assoc])

/-- The byte a store of several bytes puts at one of its own addresses. -/
theorem State.readByte_writeBytes_add {a k : Nat} {bs : List Byte} (h : a + bs.length ≤ 0x1000) (hk : k < bs.length) :
    (s.writeBytes a bs).readByte (a + k) = bs[k] := by
  rw [s.readByte_writeBytes h, dif_pos ⟨Nat.le_add_right a k, Nat.add_lt_add_left hk a⟩]
  simp only [Nat.add_sub_cancel_left]

theorem State.readByte_writeBytes_regsUpTo (h : s.i.toNat + x.toNat ≤ 0xFFF) {r : RegIdx} (hr : r.toNat ≤ x.toNat) :
    (s.writeBytes s.base (s.regsUpTo x)).readByte (s.i.toNat + r.toNat) = s.reg r := by
  have hlen := s.length_regsUpTo x
  have hread := s.readByte_writeBytes_add (a := s.base) (k := r.toNat) (bs := s.regsUpTo x)
    (by rw [hlen, State.base]; omega) (by omega)
  rw [s.getElem_regsUpTo, BitVec.ofNat_toNat, BitVec.setWidth_eq] at hread
  exact hread

/-- Division and remainder by a number that a byte holds. -/
theorem byte_div_eq_ofNat (b : Byte) {n : Nat} (hn : n < 256) :
    b / BitVec.ofNat 8 n = BitVec.ofNat 8 (b.toNat / n) := by
  apply BitVec.eq_of_toNat_eq
  have hdiv : b.toNat / n < 2 ^ 8 := (Nat.div_le_self _ _).trans_lt b.isLt
  rw [BitVec.toNat_udiv, BitVec.toNat_ofNat, BitVec.toNat_ofNat, Nat.mod_eq_of_lt hn, Nat.mod_eq_of_lt hdiv]

theorem byte_mod_eq_ofNat (b : Byte) {n : Nat} (hn : n < 256) :
    b % BitVec.ofNat 8 n = BitVec.ofNat 8 (b.toNat % n) := by
  apply BitVec.eq_of_toNat_eq
  have hmod : b.toNat % n < 2 ^ 8 := (Nat.mod_le _ _).trans_lt b.isLt
  rw [BitVec.toNat_umod, BitVec.toNat_ofNat, BitVec.toNat_ofNat, Nat.mod_eq_of_lt hn, Nat.mod_eq_of_lt hmod]

theorem decimalDigits_eq (b : Byte) :
    decimalDigits b =
      [BitVec.ofNat 8 (b.toNat / 100), BitVec.ofNat 8 (b.toNat / 10 % 10), BitVec.ofNat 8 (b.toNat % 10)] := by
  have hten : (BitVec.ofNat 8 (b.toNat / 10)).toNat = b.toNat / 10 :=
    Nat.mod_eq_of_lt ((Nat.div_le_self _ _).trans_lt b.isLt)
  have hmid : b / 10 % 10 = BitVec.ofNat 8 (b.toNat / 10 % 10) := by
    rw [show (10 : Byte) = BitVec.ofNat 8 10 from rfl, byte_div_eq_ofNat b (by decide),
      byte_mod_eq_ofNat _ (by decide), hten]
  rw [decimalDigits, hmid]
  exact congrArg₂ (fun d e => [d, _, e]) (byte_div_eq_ofNat b (by decide)) (byte_mod_eq_ofNat b (by decide))

end

/-- Settles O38: by whether the three bytes fit. -/
theorem bcdStoresThreeDigits : Obligations.BcdStoresThreeDigits := by
  refine fun x s => ⟨decodeWord_bcd x, execBcd_of_out_of_range, fun h => ⟨_, execBcd_of_fits h, rfl, ?_⟩⟩
  have hfits : s.base + (decimalDigits (s.reg x)).length ≤ 0x1000 := by
    rw [State.length_decimalDigits, State.base]; omega
  have hread := fun k (hk : k < 3) => s.readByte_writeBytes_add hfits hk
  refine ⟨(hread 0 (by decide)).trans ?_, (hread 1 (by decide)).trans ?_, (hread 2 (by decide)).trans ?_,
    fun a ha => ?_⟩
  · simp only [decimalDigits_eq, List.getElem_cons_zero]
  · simp only [decimalDigits_eq, List.getElem_cons_zero, List.getElem_cons_succ]
  · simp only [decimalDigits_eq, List.getElem_cons_zero, List.getElem_cons_succ]
  · refine s.readByte_writeBytes_of_not_mem ?_
    rw [State.length_decimalDigits, State.base]; omega

/-- Settles O39: by whether the X + 1 bytes fit. -/
theorem storeRegsStoresTheFirstRegisters : Obligations.StoreRegsStoresTheFirstRegisters := by
  refine fun x s => ⟨decodeWord_storeRegs x, execStoreRegs_of_out_of_range,
    fun h => ⟨_, execStoreRegs_of_fits h, ?_, ?_, ?_⟩⟩
  · rw [s.advancedI_eq_ofNat]; rfl
  · exact fun r hr => s.readByte_writeBytes_regsUpTo h hr
  · refine fun a ha => s.readByte_writeBytes_of_not_mem ?_
    rw [s.length_regsUpTo, State.base]; omega

/-- Settles O40: by whether the X + 1 bytes fit. -/
theorem loadRegsLoadsTheFirstRegisters : Obligations.LoadRegsLoadsTheFirstRegisters := by
  refine fun x s => ⟨decodeWord_loadRegs x, execLoadRegs_of_out_of_range, fun h => (execLoadRegs_of_fits h).trans ?_⟩
  rw [s.advancedI_eq_ofNat, s.loadRegsUpTo_eq_withRegs]
  rfl

/-! ### The key skips and `set-sound` (45_timers_input.md R210 to R212, R216) -/

section
variable {s : State} {x : RegIdx}

theorem execSkipKeyPressed_of_out_of_range (h : 0xF < (s.reg x).toNat) :
    execSkipKeyPressed x s = .next (s.stepFaulted .keyIndexOutOfRange (encode (.skipKeyPressed x))) := by
  have hfits : ¬ keyIndexFits (s.reg x) = true := by rw [keyIndexFits_iff]; omega
  rw [execSkipKeyPressed, if_neg hfits, raiseFault_eq_stepFaulted]

theorem execSkipKeyNotPressed_of_out_of_range (h : 0xF < (s.reg x).toNat) :
    execSkipKeyNotPressed x s = .next (s.stepFaulted .keyIndexOutOfRange (encode (.skipKeyNotPressed x))) := by
  have hfits : ¬ keyIndexFits (s.reg x) = true := by rw [keyIndexFits_iff]; omega
  rw [execSkipKeyNotPressed, if_neg hfits, raiseFault_eq_stepFaulted]

theorem execSkipKeyPressed_of_fits (h : (s.reg x).toNat ≤ 0xF) :
    execSkipKeyPressed x s =
      .next (s.stepDone (if s.key.getLsbD (s.reg x).toNat = true then s.pc + 4 else s.pc + 2)) := by
  rw [execSkipKeyPressed, if_pos ((keyIndexFits_iff _).mpr h), complete_eq_stepDone]
  rfl

theorem execSkipKeyNotPressed_of_fits (h : (s.reg x).toNat ≤ 0xF) :
    execSkipKeyNotPressed x s =
      .next (s.stepDone (if s.key.getLsbD (s.reg x).toNat = false then s.pc + 4 else s.pc + 2)) := by
  rw [execSkipKeyNotPressed, if_pos ((keyIndexFits_iff _).mpr h), complete_eq_stepDone]
  simp only [State.skipIf, State.keyPressed, State.following, Bool.not_eq_true']

theorem execSetSound_eq (x : RegIdx) (s : State) :
    execSetSound x s = .next { (s.stepDone (s.pc + 2)) with st := BitVec.ofNat 8 ((s.reg x).toNat - 1) } := by
  rw [← decay_eq_ofNat]
  exact complete_eq_stepDone (s.setSound (s.reg x)) s.following

end

/-- Settles O46: by whether V[X] names a key. -/
theorem keySkipsReadTheLevel : Obligations.KeySkipsReadTheLevel :=
  fun x _ => ⟨decodeWord_skipKeyPressed x, decodeWord_skipKeyNotPressed x,
    fun h => ⟨execSkipKeyPressed_of_out_of_range h, execSkipKeyNotPressed_of_out_of_range h⟩,
    fun h => ⟨execSkipKeyPressed_of_fits h, execSkipKeyNotPressed_of_fits h⟩⟩

/-- Settles O50: the decay of the value just written, as a subtraction. -/
theorem setSoundIsDecayedAtOnce : Obligations.SetSoundIsDecayedAtOnce :=
  fun x s => ⟨decodeWord_setSound x, execSetSound_eq x s⟩

/-! ### Reset (10_state.md R36, 20_memory.md R57, 70_reset_and_hazards.md R260) -/

theorem resetByte_of_ge {a : Nat} (h : 80 ≤ a) : resetByte a = 0 := by
  rw [resetByte, List.getD_eq_default]
  exact h

theorem State.reset_readByte (a : Nat) : State.reset.readByte a = resetByte a := rfl

theorem State.reset_pixel (cx cy : Nat) : State.reset.pixel cx cy = false := State.reset.clearBitmap_pixel cx cy

/-- What the core's state is after reset, said once for both ways to it. -/
theorem State.core_eq_reset {s t : State} (h : t = State.reset ∨ t = s.portReset) :
    t = { State.reset with edgePolicy := t.edgePolicy, inputs := t.inputs, draws := t.draws } := by
  obtain rfl | rfl := h <;> rfl

/-- Settles O52: the state after reset, field by field. -/
theorem resetLeavesTheStatedValues : Obligations.ResetLeavesTheStatedValues := by
  intro s t h
  rw [State.core_eq_reset h]
  refine ⟨fun r => ?_, rfl, rfl, rfl, fun k => ?_, rfl, rfl, State.reset_pixel, rfl, rfl, rfl, fun a => rfl,
    fun a ha => resetByte_of_ge ha⟩
  · exact Vector.getElem_replicate r.isLt
  · exact Vector.getElem_replicate k.isLt

/-- Settles O53: the font table, glyph by glyph. -/
theorem fontAtReset : Obligations.FontAtReset := by
  intro s t h d
  have hread : ∀ a, t.readByte a = resetByte a := by rw [State.core_eq_reset h]; exact State.reset_readByte
  simp only [hread]
  revert d
  decide

end Sys2Proof.Machine

namespace Sys2Proof.Machine

/-! ### The load port (40_cycle_driver.md R106, 60_exceptions.md R244) -/

section
variable {s : State} {image : List Byte}

theorem State.portLoad_of_fits (h : image.length ≤ 3584) :
    s.portLoad image = (.ok, { s.writeBytes Config.loadOffset image with phase := .loaded }) := if_pos h

theorem State.portLoad_of_too_long (h : 3584 < image.length) : s.portLoad image = (.loadError, s) :=
  if_neg (Nat.not_le_of_lt h)

theorem hostAct_load_ok (hphase : s.phase = .fresh) (h : image.length ≤ 3584) :
    hostAct (.load image) s =
      .next ({ s.writeBytes Config.loadOffset image with phase := .loaded }, .load .ok) := by
  rw [hostAct_load_fresh hphase, State.portLoad_of_fits h]

theorem hostAct_load_too_long (hphase : s.phase = .fresh) (h : 3584 < image.length) :
    hostAct (.load image) s = .next (s, .load .loadError) := by
  rw [hostAct_load_fresh hphase, State.portLoad_of_too_long h]

/-- An image that fits ends within memory. -/
theorem loadOffset_add_le (h : image.length ≤ 3584) : Config.loadOffset + image.length ≤ 0x1000 :=
  Nat.add_le_add_left h 0x200

end

/-- Settles O54: by the length of the image and the boot order. -/
theorem loadCopiesTheImageOrErrs : Obligations.LoadCopiesTheImageOrErrs :=
  fun s image => ⟨fun hphase h => ⟨_, hostAct_load_ok hphase h,
      fun k => s.readByte_writeBytes_add (loadOffset_add_le h) k.isLt,
      fun _ ha => s.readByte_writeBytes_of_not_mem ha, rfl⟩,
    fun hphase h => hostAct_load_too_long hphase h, fun hphase => hostAct_load_late hphase image⟩

/-- The image's first two bytes are the first word fetched (70_reset_and_hazards.md R261). -/
theorem fetchWord_load (hi lo : Byte) {rest : List Byte} (h : rest.length ≤ 3582) :
    State.fetchWord { State.reset.writeBytes Config.loadOffset (hi :: lo :: rest) with phase := .loaded } =
      hi ++ lo := by
  have hread := fun k (hk : k < (hi :: lo :: rest).length) =>
    State.reset.readByte_writeBytes_add (loadOffset_add_le (image := hi :: lo :: rest) (Nat.add_le_add_right h 2)) hk
  exact congrArg₂ wordOfBytes (hread 0 (by simp)) (hread 1 (by simp))

/-- Settles O55: the loaded image is what the first step fetches, and O7 says what the step does with it. -/
theorem firstStepRunsTheImagesFirstWord : Obligations.FirstStepRunsTheImagesFirstWord := by
  intro hi lo rest i hlen hdecode
  have hfits : (hi :: lo :: rest).length ≤ 3584 := Nat.add_le_add_right hlen 2
  obtain ⟨u, hexec, hstep⟩ := stepRunsTheInstructionAtPc
    { State.reset.writeBytes Config.loadOffset (hi :: lo :: rest) with phase := .loaded } i rfl
    (show (0x200 : Word).toNat ≤ 0xFFE by decide)
    ((congrArg decodeWord (fetchWord_load hi lo hlen)).trans hdecode)
  exact ⟨_, u, hostAct_load_ok rfl hfits, hexec, hstep⟩

/-! ### The step port (40_cycle_driver.md R104, R108, R112) -/

theorem State.portStep_of_noFault {s : State} (h : s.fault = .noFault) (r : Byte) :
    s.portStep r = step { s with inputs := ⟨s.key, r⟩ :: s.inputs } := if_pos h

/-- The step port on a `rand` at PC: the register file has r AND NN at X. -/
theorem hostAct_step_rand {s : State} {x : RegIdx} {nn : Byte} (r : Byte) (hfault : s.fault = .noFault)
    (hpc : s.pc.toNat ≤ 0xFFE) (hword : decodeWord s.fetchWord = some (.rand x nn)) :
    hostAct (.step r) s =
      .next (((State.withRegs { s with inputs := ⟨s.key, r⟩ :: s.inputs } fun q =>
        if q = x then r &&& nn else s.reg q).stepDone (s.pc + 2)).afterStep, .status .ok) := by
  have hstep := step_of_decodes (s := { s with inputs := ⟨s.key, r⟩ :: s.inputs }) hfault hpc hword
  rw [hostAct, s.portStep_of_noFault hfault, hstep]
  exact congrArg (fun o => withStatus (finishStep o)) (execRand_eq x nn { s with inputs := ⟨s.key, r⟩ :: s.inputs })

/-- Settles O56: the register file and the frame of that step. -/
theorem randPortSuppliesTheByte : Obligations.RandPortSuppliesTheByte := by
  intro s r x nn hfault hpc hword
  refine ⟨_, hostAct_step_rand r hfault hpc ((congrArg decodeWord hword).trans (decodeWord_rand x nn)), ?_, ?_,
    fun q hq => ?_, ?_, ?_, ?_⟩
  case refine_3 => simp [hq]
  all_goals simp

/-! ### The output ports (40_cycle_driver.md R108, R112) -/

theorem State.length_bitmapOut (s : State) : s.bitmapOut.length = 2048 := by simp [bitmapOut, columns_eq, rows_eq]

/-- Cell (x, y) at 64 y + x. -/
theorem State.getElem?_bitmapOut (s : State) {x y : Nat} (hx : x < 64) (hy : y < 32) :
    s.bitmapOut[64 * y + x]? = some (s.pixel x y) := by
  have hlt : 64 * y + x < 2048 := by omega
  have hcol : (64 * y + x) % 64 = x := by omega
  have hrow : (64 * y + x) / 64 = y := by omega
  simp [bitmapOut, columns_eq, rows_eq, hlt, hcol, hrow]

/-- Settles O57: the ports' own definitions, and the place of a cell in the listed bitmap. -/
theorem outputPortsShowLatchAndBitmap : Obligations.OutputPortsShowLatchAndBitmap :=
  ⟨fun _ => rfl, rfl, rfl, rfl, rfl, rfl, rfl, rfl, rfl,
    fun s => ⟨s.bitmapOut, rfl, s.length_bitmapOut, fun _ _ => s.getElem?_bitmapOut⟩, fun _ _ => rfl⟩

end Sys2Proof.Machine

namespace Sys2Proof.Machine

/-! ### The sprite's set pixels, and where the edge policy puts them (44_display.md R191, R193) -/

section
variable {s : State} {x y : RegIdx} {n : Nat}

theorem State.mem_drawPixels {p : Nat × Nat} : p ∈ s.drawPixels x y n ↔
    ∃ r < n, ∃ c < 8, s.spriteBit r c = true ∧ p = ((s.reg x).toNat + c, (s.reg y).toNat + r) := by
  simp only [State.drawPixels, mem_spritePixels, Memory.length_readBytes, Memory.getElem_readBytes, exists_prop]
  rfl

theorem State.nodup_drawPixels : (s.drawPixels x y n).Nodup := nodup_spritePixels _ _ _

theorem placePixel_of_inGrid (policy : Config.EdgePolicy) {p : Nat × Nat} (h : inGrid p = true) :
    placePixel policy p.1 p.2 = some p := by
  obtain ⟨hx, hy⟩ := (inGrid_iff p).mp h
  cases policy with
  | fault | clip => exact if_pos ⟨hx, hy⟩
  | wrap => rw [placePixel, Nat.mod_eq_of_lt hx, Nat.mod_eq_of_lt hy]

theorem inGrid_of_placePixel {policy : Config.EdgePolicy} {cx cy : Nat} {q : Nat × Nat}
    (h : placePixel policy cx cy = some q) : inGrid q = true := by
  cases policy with
  | fault | clip =>
    obtain ⟨hgrid, ⟨⟩⟩ := Option.ite_none_right_eq_some.mp h
    exact (inGrid_iff _).mpr hgrid
  | wrap =>
    obtain rfl := Option.some.inj h
    exact (inGrid_iff _).mpr ⟨Nat.mod_lt _ (by decide), Nat.mod_lt _ (by decide)⟩

/-- Outside the grid only `wrap` places a pixel. -/
theorem placePixel_of_not_inGrid {policy : Config.EdgePolicy} (hpolicy : policy ≠ .wrap) {p : Nat × Nat}
    (h : ¬ inGrid p = true) : placePixel policy p.1 p.2 = none := by
  rw [inGrid_iff] at h
  cases policy with
  | fault | clip => exact if_neg h
  | wrap => exact absurd rfl hpolicy

theorem applyEdgePolicy_eq_none_iff {policy : Config.EdgePolicy} {ps : List (Nat × Nat)} :
    applyEdgePolicy policy ps = none ↔ policy = .fault ∧ ∃ p ∈ ps, ¬ inGrid p = true := by
  cases policy <;> simp [applyEdgePolicy]

/-- What the edge policy lists is what it places. -/
theorem mem_of_applyEdgePolicy {policy : Config.EdgePolicy} {ps qs : List (Nat × Nat)}
    (h : applyEdgePolicy policy ps = some qs) (q : Nat × Nat) :
    q ∈ qs ↔ ∃ p ∈ ps, placePixel policy p.1 p.2 = some q := by
  have hplace : ∀ p, policy ≠ .wrap → (placePixel policy p.1 p.2 = some q ↔ inGrid p = true ∧ p = q) := by
    intro p hpolicy
    by_cases hp : inGrid p = true
    · simp [placePixel_of_inGrid policy hp, hp]
    · simp [placePixel_of_not_inGrid hpolicy hp, hp]
  cases policy with
  | fault =>
    obtain ⟨hall, ⟨⟩⟩ := Option.ite_none_right_eq_some.mp h
    simp only [hplace _ nofun]
    exact ⟨fun hq => ⟨q, hq, List.all_eq_true.mp hall q hq, rfl⟩, fun ⟨p, hp, _, hpq⟩ => hpq ▸ hp⟩
  | wrap =>
    obtain rfl := Option.some.inj h
    simp [placePixel, columns_eq, rows_eq]
  | clip =>
    obtain rfl := Option.some.inj h
    simp only [hplace _ nofun, List.mem_filter]
    exact ⟨fun ⟨hq, hgrid⟩ => ⟨q, hq, hgrid, rfl⟩, fun ⟨p, hp, hgrid, hpq⟩ => hpq ▸ ⟨hp, hgrid⟩⟩

/-- A sprite is narrower and lower than the grid, so wrapping it brings no two pixels together. -/
theorem wrap_injOn_drawPixels (hn : n ≤ 32) {p q : Nat × Nat} (hp : p ∈ s.drawPixels x y n)
    (hq : q ∈ s.drawPixels x y n) (h : (p.1 % 64, p.2 % 32) = (q.1 % 64, q.2 % 32)) : p = q := by
  obtain ⟨r, hr, c, hc, -, rfl⟩ := State.mem_drawPixels.mp hp
  obtain ⟨r', hr', c', hc', -, rfl⟩ := State.mem_drawPixels.mp hq
  simp only [Prod.mk.injEq] at h ⊢
  omega

theorem nodup_of_applyEdgePolicy (hn : n ≤ 32) {policy : Config.EdgePolicy} {qs : List (Nat × Nat)}
    (h : applyEdgePolicy policy (s.drawPixels x y n) = some qs) : qs.Nodup := by
  cases policy with
  | fault =>
    obtain ⟨-, ⟨⟩⟩ := Option.ite_none_right_eq_some.mp h
    exact State.nodup_drawPixels
  | wrap =>
    obtain rfl := Option.some.inj h
    exact State.nodup_drawPixels.map_on fun p hp q hq => wrap_injOn_drawPixels hn hp hq
  | clip =>
    obtain rfl := Option.some.inj h
    exact State.nodup_drawPixels.filter _

/-! ### The sprite cell by cell, in the words of the claims -/

theorem State.spriteHits_iff (cx cy : Nat) : s.spriteHits x y n cx cy = true ↔
    ∃ p ∈ s.drawPixels x y n, placePixel s.edgePolicy p.1 p.2 = some (cx, cy) := by
  simp only [State.spriteHits, List.any_eq_true, List.mem_range, Bool.and_eq_true, beq_iff_eq, State.mem_drawPixels]
  constructor
  · rintro ⟨r, hr, c, hc, hbit, hplace⟩
    exact ⟨_, ⟨r, hr, c, hc, hbit, rfl⟩, hplace⟩
  · rintro ⟨_, ⟨r, hr, c, hc, hbit, rfl⟩, hplace⟩
    exact ⟨r, hr, c, hc, hbit, hplace⟩

theorem State.spriteOffGrid_iff : s.spriteOffGrid x y n = true ↔ ∃ p ∈ s.drawPixels x y n, ¬ inGrid p = true := by
  simp only [State.spriteOffGrid, List.any_eq_true, List.mem_range, Bool.and_eq_true, decide_eq_true_eq,
    State.mem_drawPixels, inGrid_iff, not_and_or, not_lt]
  constructor
  · rintro ⟨r, hr, c, hc, hbit, hoff⟩
    exact ⟨_, ⟨r, hr, c, hc, hbit, rfl⟩, hoff⟩
  · rintro ⟨_, ⟨r, hr, c, hc, hbit, rfl⟩, hoff⟩
    exact ⟨r, hr, c, hc, hbit, hoff⟩

/-- `ps` are the cells that `draw VX, VY, N` inverts: each once, in the grid, and the ones the sprite hits. -/
structure State.Plots (s : State) (x y : RegIdx) (n : Nat) (ps : List (Nat × Nat)) : Prop where
  applied : applyEdgePolicy s.edgePolicy (s.drawPixels x y n) = some ps
  nodup : ps.Nodup
  inGrid : ∀ p ∈ ps, Machine.inGrid p = true
  mem_iff : ∀ cx cy, (cx, cy) ∈ ps ↔ s.spriteHits x y n cx cy = true

theorem State.Plots.of_applied (hn : n ≤ 32) {ps : List (Nat × Nat)}
    (h : applyEdgePolicy s.edgePolicy (s.drawPixels x y n) = some ps) : s.Plots x y n ps where
  applied := h
  nodup := nodup_of_applyEdgePolicy hn h
  inGrid p hp := by
    obtain ⟨q, -, hq⟩ := (mem_of_applyEdgePolicy h p).mp hp
    exact inGrid_of_placePixel hq
  mem_iff cx cy := by rw [mem_of_applyEdgePolicy h, State.spriteHits_iff]

/-- There are such cells unless the policy is `fault` and the sprite leaves the grid. -/
theorem State.exists_plots (hn : n ≤ 32) (h : s.edgePolicy = .fault → s.spriteOffGrid x y n = false) :
    ∃ ps, s.Plots x y n ps := by
  cases happ : applyEdgePolicy s.edgePolicy (s.drawPixels x y n) with
  | some ps => exact ⟨ps, .of_applied hn happ⟩
  | none =>
    obtain ⟨hpolicy, hoff⟩ := applyEdgePolicy_eq_none_iff.mp happ
    exact absurd (State.spriteOffGrid_iff.mpr hoff) (Bool.eq_false_iff.mp (h hpolicy))

/-! ### How `draw` ends (44_display.md R191, R193) -/

theorem toNat_nibble_le (n : Nibble) : n.toNat ≤ 32 := by have := n.isLt; omega

/-- The memory check of `draw`, by the highest address. -/
theorem accessFits_nibble_iff (n : Nibble) :
    accessFits s.base n.toNat = true ↔ n = 0 ∨ s.i.toNat + n.toNat - 1 ≤ 0xFFF := by
  have hzero : n = 0 ↔ n.toNat = 0 := BitVec.toNat_inj.symm
  rw [accessFits_iff, hzero, State.base]
  omega

theorem encode_draw (x y : RegIdx) (n : Nibble) : encode (.draw x y n.toNat) = 0xD#4 ++ x ++ y ++ n := by
  rw [encode, BitVec.ofNat_toNat, BitVec.setWidth_eq]
  rfl

theorem execDraw_of_out_of_range (h : ¬ accessFits s.base n = true) :
    execDraw x y n s = .next (s.stepFaulted .memoryOutOfBounds (encode (.draw x y n))) := by
  rw [execDraw, if_neg h, raiseFault_eq_stepFaulted]

theorem execDraw_of_off_grid (h : accessFits s.base n = true) (hpolicy : s.edgePolicy = .fault)
    (hoff : s.spriteOffGrid x y n = true) :
    execDraw x y n s = .next (s.stepFaulted .drawOutOfBounds (encode (.draw x y n))) := by
  have hnone := applyEdgePolicy_eq_none_iff.mpr ⟨hpolicy, State.spriteOffGrid_iff.mp hoff⟩
  rw [execDraw, if_pos h, hnone]
  exact raiseFault_eq_stepFaulted s _ _

theorem execDraw_of_plots {ps : List (Nat × Nat)} (h : accessFits s.base n = true) (hps : s.Plots x y n ps) :
    execDraw x y n s = .next ((blit s ps).stepDone (s.pc + 2)) := by
  rw [execDraw, if_pos h, hps.applied]
  exact complete_eq_stepDone (blit s ps) s.following

/-- A `draw` that completes has blitted such cells. -/
theorem execDraw_ok {t : State} (hn : n ≤ 32) (h : execDraw x y n s = .next t) (ht : t.status = .ok) :
    accessFits s.base n = true ∧ ∃ ps, s.Plots x y n ps ∧ t = (blit s ps).stepDone (s.pc + 2) := by
  by_cases hfits : accessFits s.base n = true
  · refine ⟨hfits, ?_⟩
    cases happ : applyEdgePolicy s.edgePolicy (s.drawPixels x y n) with
    | some ps =>
      have hps : s.Plots x y n ps := .of_applied hn happ
      exact ⟨ps, hps, Host.Outcome.next.inj (h.symm.trans (execDraw_of_plots hfits hps))⟩
    | none =>
      obtain ⟨hpolicy, hoff⟩ := applyEdgePolicy_eq_none_iff.mp happ
      rw [execDraw_of_off_grid hfits hpolicy (State.spriteOffGrid_iff.mpr hoff)] at h
      cases h
      exact absurd ht nofun
  · rw [execDraw_of_out_of_range hfits] at h
    cases h
    exact absurd ht nofun

/-! ### What the blit of the sprite's cells leaves -/

theorem State.Plots.blit_pixel {ps : List (Nat × Nat)} (hps : s.Plots x y n ps) (cx cy : Nat) :
    (blit s ps).pixel cx cy = (s.pixel cx cy ^^ s.spriteHits x y n cx cy) := by
  obtain ⟨-, hpixel, -⟩ := blit_spec s ps hps.inGrid hps.nodup
  have hhits : decide ((cx, cy) ∈ ps) = s.spriteHits x y n cx cy := by
    rw [Bool.eq_iff_iff, decide_eq_true_iff, hps.mem_iff]
  rw [hpixel, hhits]

theorem State.Plots.spriteCollides_eq {ps : List (Nat × Nat)} (hps : s.Plots x y n ps) :
    s.spriteCollides x y n = ps.any fun p => s.pixel p.1 p.2 := by
  rw [Bool.eq_iff_iff]
  simp only [State.spriteCollides, List.any_eq_true, List.mem_range, Bool.and_eq_true, ← hps.mem_iff]
  constructor
  · rintro ⟨cx, -, cy, -, hmem, hset⟩
    exact ⟨(cx, cy), hmem, hset⟩
  · rintro ⟨⟨cx, cy⟩, hmem, hset⟩
    obtain ⟨hx, hy⟩ := (inGrid_iff _).mp (hps.inGrid _ hmem)
    exact ⟨cx, hx, cy, hy, hmem, hset⟩

theorem State.Plots.blit_reg {ps : List (Nat × Nat)} (hps : s.Plots x y n ps) (r : RegIdx) :
    (blit s ps).reg r = if r = 0xF then flagByte (s.spriteCollides x y n) else s.reg r := by
  obtain ⟨-, -, hreg⟩ := blit_spec s ps hps.inGrid hps.nodup
  rw [hreg, hps.spriteCollides_eq]

/-- The end of a step leaves the bitmap. -/
theorem State.stepDone_update_bm (s : State) (bm : Vector (BitVec 64) 32) (pc : Word) :
    State.stepDone { s with bm := bm } pc = { s.stepDone pc with bm := bm } := rfl

/-- The frame: nothing but VF and the bitmap. -/
theorem State.Plots.blit_eq {ps : List (Nat × Nat)} (hps : s.Plots x y n ps) :
    blit s ps =
      { (s.withRegs fun r => if r = 0xF then (blit s ps).reg 0xF else s.reg r) with bm := (blit s ps).bm } := by
  obtain ⟨⟨hsame⟩, -, -⟩ := blit_spec s ps hps.inGrid hps.nodup
  have hreg : ∀ r, (blit s ps).reg r = if r = 0xF then (blit s ps).reg 0xF else s.reg r := by
    intro r
    by_cases hr : r = 0xF
    · rw [if_pos hr, hr]
    · rw [if_neg hr, hps.blit_reg, if_neg hr]
  calc blit s ps
    _ = (blit s ps).withRegs fun r => if r = 0xF then (blit s ps).reg 0xF else s.reg r := State.eq_withRegs hreg
    _ = _ := congrArg (State.withRegs · fun r => if r = 0xF then (blit s ps).reg 0xF else s.reg r) hsame

end

/-- Settles O42: the blit of the sprite's cells. -/
theorem drawInvertsExactlyTheSpritesCells : Obligations.DrawInvertsExactlyTheSpritesCells := by
  refine fun x y n s => ⟨decodeWord_draw x y n, fun hfits hpolicy => ?_⟩
  obtain ⟨ps, hps⟩ := State.exists_plots (toNat_nibble_le n) hpolicy
  refine ⟨_, execDraw_of_plots ((accessFits_nibble_iff n).mpr hfits) hps, fun cx cy _ _ => hps.blit_pixel cx cy,
    (hps.blit_reg 0xF).trans (if_pos rfl), ?_⟩
  rw [State.stepDone_reg, State.stepDone_bm]
  exact (congrArg (State.stepDone · (s.pc + 2)) hps.blit_eq).trans (State.stepDone_update_bm _ _ _)

/-- Settles O43: the two checks in their order. -/
theorem drawLatchesMemoryBeforeEdge : Obligations.DrawLatchesMemoryBeforeEdge := by
  intro x y n s
  rw [← encode_draw]
  refine ⟨fun hn h => execDraw_of_out_of_range fun hfits => ?_,
    fun hfits => execDraw_of_off_grid ((accessFits_nibble_iff n).mpr hfits)⟩
  obtain hzero | hle := (accessFits_nibble_iff n).mp hfits
  · exact hn hzero
  · omega

end Sys2Proof.Machine

namespace Sys2Proof.Machine

/-! ### The bitmap is its cells (10_state.md R31) -/

section
variable {s t : State}

theorem State.pixel_congr (h : t.bm = s.bm) (cx cy : Nat) : t.pixel cx cy = s.pixel cx cy := by
  rw [State.pixel, State.pixel, h]

theorem State.getLsbD_bm (s : State) {cy : Nat} (hy : cy < 32) (cx : Nat) : s.bm[cy].getLsbD cx = s.pixel cx cy := by
  rw [State.pixel]
  exact congrArg (BitVec.getLsbD · cx) (Array.getElem_eq_getD 0)

theorem State.bm_ext (h : ∀ cx cy, t.pixel cx cy = s.pixel cx cy) : t.bm = s.bm :=
  Vector.ext fun cy hy => BitVec.eq_of_getLsbD_eq fun cx _ => by
    rw [t.getLsbD_bm hy, s.getLsbD_bm hy, h]

end

/-! ### Two equal draws (44_display.md R194) -/

section
variable {s u : State} {x y : RegIdx} {n : Nat} {ps : List (Nat × Nat)}

/-- The cells depend on the operands, the sprite's bytes and the policy only. -/
theorem State.Plots.congr (hps : s.Plots x y n ps) (hx : u.reg x = s.reg x) (hy : u.reg y = s.reg y) (hi : u.i = s.i)
    (hmem : u.mem = s.mem) (hpolicy : u.edgePolicy = s.edgePolicy) (hn : n ≤ 32) : u.Plots x y n ps := by
  refine .of_applied hn ?_
  rw [State.drawPixels, hpolicy, hx, hy, hmem, State.base, hi]
  exact hps.applied

/-- The second of two equal draws undoes the first, cell by cell. -/
theorem State.Plots.blit_pixel_blit (hps : s.Plots x y n ps) (hps' : u.Plots x y n ps) (hbm : u.bm = (blit s ps).bm)
    (cx cy : Nat) : (blit u ps).pixel cx cy = s.pixel cx cy := by
  have hhits : u.spriteHits x y n cx cy = s.spriteHits x y n cx cy := by
    rw [Bool.eq_iff_iff, ← hps.mem_iff, ← hps'.mem_iff]
  rw [hps'.blit_pixel, hhits, State.pixel_congr hbm, hps.blit_pixel, Bool.xor_assoc, Bool.xor_self, Bool.xor_false]

/-- The second draw collides where a hit cell was clear before the first. -/
theorem State.Plots.collides_after_blit (hps : s.Plots x y n ps) (hps' : u.Plots x y n ps)
    (hbm : u.bm = (blit s ps).bm) :
    u.spriteCollides x y n = true ↔
      ∃ cx cy : Nat, cx < 64 ∧ cy < 32 ∧ s.spriteHits x y n cx cy = true ∧ s.pixel cx cy = false := by
  have hflip : ∀ cx cy, s.spriteHits x y n cx cy = true → u.pixel cx cy = !s.pixel cx cy := fun cx cy hhit => by
    rw [State.pixel_congr hbm, hps.blit_pixel, hhit, Bool.xor_true]
  simp only [State.spriteCollides, List.any_eq_true, List.mem_range, Bool.and_eq_true, ← hps'.mem_iff, ← hps.mem_iff]
  constructor
  · rintro ⟨cx, hx, cy, hy, hmem, hset⟩
    exact ⟨cx, cy, hx, hy, hmem, by simpa [hflip cx cy ((hps.mem_iff cx cy).mp hmem)] using hset⟩
  · rintro ⟨cx, cy, hx, hy, hmem, hclear⟩
    exact ⟨cx, hx, cy, hy, hmem, by rw [hflip cx cy ((hps.mem_iff cx cy).mp hmem), hclear]; rfl⟩

theorem flagByte_eq_one_iff (b : Bool) : flagByte b = 1 ↔ b = true := by cases b <;> decide

theorem flagByte_cases (b : Bool) : flagByte b = 0 ∨ flagByte b = 1 := by cases b <;> decide

end

/-- Settles O44: both draws blit the same cells, so the second inverts them back. -/
theorem drawingTwiceRestoresTheBitmap : Obligations.DrawingTwiceRestoresTheBitmap := by
  intro x y n s t u h ht hx hy hi hmem hpolicy hbm
  obtain ⟨hfits, ps, hps, rfl⟩ := execDraw_ok (toNat_nibble_le n) h ht
  have hps' := hps.congr hx hy hi hmem hpolicy (toNat_nibble_le n)
  have hfits' : accessFits u.base n.toNat = true := by rw [State.base, hi]; exact hfits
  have hvf : ((blit u ps).stepDone (u.pc + 2)).reg 0xF = flagByte (u.spriteCollides x y n.toNat) :=
    (hps'.blit_reg 0xF).trans (if_pos rfl)
  have hone := (flagByte_eq_one_iff _).trans (hps.collides_after_blit hps' hbm)
  refine ⟨_, execDraw_of_plots hfits' hps', rfl, State.bm_ext (hps.blit_pixel_blit hps' hbm), ?_⟩
  rw [hvf]
  refine ⟨flagByte_cases _, hone, fun hclear => hone.trans ⟨?_, ?_⟩⟩
  · rintro ⟨cx, cy, hcx, hcy, hhit, -⟩
    exact ⟨cx, cy, hcx, hcy, hhit⟩
  · rintro ⟨cx, cy, hcx, hcy, hhit⟩
    exact ⟨cx, cy, hcx, hcy, hhit, hclear cx cy hhit⟩

/-! ### Counting cells and bits (44_display.md R195) -/

/-- A list of numbers that a map lists apart, and onto the members of `ps`, is as long as `ps`. -/
theorem length_eq_of_listing {l : List Nat} {ps : List (Nat × Nat)} (f : Nat → Nat × Nat) (hl : l.Nodup)
    (hps : ps.Nodup) (hinj : ∀ a ∈ l, ∀ b ∈ l, f a = f b → a = b)
    (hmem : ∀ p, p ∈ ps ↔ ∃ k ∈ l, f k = p) : l.length = ps.length := by
  have hperm : (l.map f).Perm ps :=
    (List.perm_ext_iff_of_nodup (hl.map_on hinj) hps).mpr fun p => by rw [List.mem_map, hmem]
  rw [← hperm.length_eq, List.length_map]

section
variable {s : State} {x y : RegIdx} {n : Nat} {ps : List (Nat × Nat)}

/-- The cells set are as many as the cells inverted, where all were clear. -/
theorem cellsSet_eq_length {t : State} (hgrid : ∀ p ∈ ps, inGrid p = true) (hn : ps.Nodup)
    (ht : ∀ cx cy, t.pixel cx cy = true ↔ (cx, cy) ∈ ps) : t.cellsSet = ps.length := by
  refine length_eq_of_listing (fun k => (k % 64, k / 64)) (List.nodup_range.filter _) hn (fun a _ b _ hab => ?_)
    fun p => ?_
  · simp only [Prod.mk.injEq] at hab
    omega
  · simp only [List.mem_filter, List.mem_range, ht]
    constructor
    · intro hp
      obtain ⟨hx, hy⟩ := (inGrid_iff p).mp (hgrid p hp)
      have hcell : ((64 * p.2 + p.1) % 64, (64 * p.2 + p.1) / 64) = p := by
        rw [Prod.ext_iff]; omega
      exact ⟨64 * p.2 + p.1, ⟨by omega, by rwa [hcell]⟩, hcell⟩
    · rintro ⟨k, ⟨-, hk⟩, rfl⟩
      exact hk

/-- The sprite's set bits are as many as its set pixels. -/
theorem spriteWeight_eq_length : s.spriteWeight n = (s.drawPixels x y n).length := by
  refine length_eq_of_listing (fun k => ((s.reg x).toNat + k % 8, (s.reg y).toNat + k / 8)) (List.nodup_range.filter _)
    State.nodup_drawPixels (fun a _ b _ hab => ?_) fun p => ?_
  · simp only [Prod.mk.injEq] at hab
    omega
  · simp only [List.mem_filter, List.mem_range, State.mem_drawPixels]
    constructor
    · rintro ⟨r, hr, c, hc, hbit, rfl⟩
      have hrow : (8 * r + c) / 8 = r := by omega
      have hcol : (8 * r + c) % 8 = c := by omega
      exact ⟨8 * r + c, ⟨by omega, by rwa [hrow, hcol]⟩, by rw [hrow, hcol]⟩
    · rintro ⟨k, ⟨hk, hbit⟩, rfl⟩
      exact ⟨k / 8, by omega, k % 8, by omega, hbit, rfl⟩

/-- A sprite inside the grid plots its own pixels, under every policy. -/
theorem State.Plots.perm_drawPixels (hps : s.Plots x y n ps) (hoff : s.spriteOffGrid x y n = false) :
    ps.Perm (s.drawPixels x y n) := by
  have hgrid : ∀ p ∈ s.drawPixels x y n, Machine.inGrid p = true := by
    by_contra hnot
    push Not at hnot
    obtain ⟨p, hp, hnp⟩ := hnot
    exact Bool.eq_false_iff.mp hoff (State.spriteOffGrid_iff.mpr ⟨p, hp, hnp⟩)
  refine (List.perm_ext_iff_of_nodup hps.nodup State.nodup_drawPixels).mpr fun q => ?_
  rw [mem_of_applyEdgePolicy hps.applied]
  constructor
  · rintro ⟨p, hp, hplace⟩
    rw [placePixel_of_inGrid _ (hgrid p hp)] at hplace
    cases hplace
    exact hp
  · exact fun hq => ⟨q, hq, placePixel_of_inGrid _ (hgrid q hq)⟩

/-- On a clear bitmap nothing collides. -/
theorem spriteCollides_of_clear (hclear : ∀ cx cy : Nat, s.pixel cx cy = false) : s.spriteCollides x y n = false := by
  simp [State.spriteCollides, hclear]

end

/-- Settles O45: cells set, cells inverted, set pixels and set bits are equally many. -/
theorem drawOnClearBitmapSetsAsManyCellsAsBits : Obligations.DrawOnClearBitmapSetsAsManyCellsAsBits := by
  intro x y n s hclear hfits hoff
  obtain ⟨ps, hps⟩ := State.exists_plots (toNat_nibble_le n) fun _ => hoff
  have hset : ∀ cx cy, (blit s ps).pixel cx cy = true ↔ (cx, cy) ∈ ps := fun cx cy => by
    rw [hps.blit_pixel, hclear, Bool.false_xor, hps.mem_iff]
  refine ⟨_, execDraw_of_plots ((accessFits_nibble_iff n).mpr hfits) hps, rfl, ?_, ?_⟩
  · calc ((blit s ps).stepDone (s.pc + 2)).cellsSet
      _ = ps.length := cellsSet_eq_length hps.inGrid hps.nodup hset
      _ = (s.drawPixels x y n.toNat).length := (hps.perm_drawPixels hoff).length_eq
      _ = s.spriteWeight n.toNat := spriteWeight_eq_length.symm
  · rw [State.stepDone_reg, hps.blit_reg, if_pos rfl, spriteCollides_of_clear hclear]
    rfl

end Sys2Proof.Machine
